-- ==== Sys2Proof/Word.lean ====
section
/-! DEFINITION. The word types of the PRC's interface. An operation word is 32 bits (30_encoding.md R90, R91), its
three fields are 8, 8 and 16 bits (R90), and a readback value is 16 bits (20_memory.md R60). -/

namespace Sys2Proof

/-- An operation word: one stimulus in its 32-bit encoding (30_encoding.md R90). -/
abbrev OpWord := BitVec 32

/-- A 16-bit field: an immediate, a register of the readback space, a configuration or status value. -/
abbrev Half := BitVec 16

/-- A byte of a transport that carries words as bytes (20_memory.md R62), or one of the fields OP and A. -/
abbrev Byte := BitVec 8

end Sys2Proof
end

