-- ==== Sys2Proof/Config.lean ====
section
/-! DEFINITION. What an instance of the PRC fixes: the parameters of 00_scope.md R9 with their legal ranges and the
constraints of R10, and the record types they need (10_state.md R31 to R36). The parameter VALUES are open in the
spec (92_eei_decisions.md D11); a machine state carries them as plain data (assumption log 1), so a statement about
every state is a statement about every instance. -/

namespace Sys2Proof

/-- `S.cfg.runMode` (10_state.md R34). -/
inductive RunMode where
  | continuous
  | timed
deriving DecidableEq, Repr

/-- `S.cfg.controlMode` (10_state.md R35). MaxEfficiency is accepted and has no regulation behaviour (41_tick.md R134). -/
inductive ControlMode where
  | constantFrequency
  | maxEfficiency
deriving DecidableEq, Repr

/-- What an edge of a bound input does (10_state.md R36, 44_inputs.md R201). -/
inductive InputAction where
  | unused
  | momentaryControl
  | toggleControl
  | emergencyStop
deriving DecidableEq, Repr

/-- The two general-purpose inputs; ids 0 and 3 do not exist (44_inputs.md R200, 92_eei_decisions.md D30). -/
inductive InputId where
  | input1
  | input2
deriving DecidableEq, Repr

/-- One input's binding, the pair (action, announce) of 10_state.md R36. -/
structure InputBinding where
  action : InputAction
  announce : Bool
deriving DecidableEq, Repr

/-- The RequestedConfig record (10_state.md R31 to R36). -/
structure RequestedConfig where
  /-- target oscillator frequency, Hz (R32) -/
  frequencyHz : Half
  /-- power setpoint, in 0.1 W (R33) -/
  powerDeciWatts : Half
  /-- run mode (R34) -/
  runMode : RunMode
  /-- length of a timed run, in ticks; valid only when Timed (R34) -/
  runTimerTicks : Half
  /-- control mode (R35) -/
  controlMode : ControlMode
  /-- binding of input 1 (R36) -/
  input1 : InputBinding
  /-- binding of input 2 (R36) -/
  input2 : InputBinding
deriving DecidableEq, Repr

/-- WAVEFORM_KIND, an opaque token handed to the signal generator (00_scope.md R9, 93 IMP7). DESIGN CHOICE, safe: the
token is a number that no rule computes with (assumption log 8). -/
structure WaveformKind where
  token : Nat
deriving DecidableEq, Repr

/-- TICK_HZ, a positive number no rule reads (00_scope.md R9), as a ratio. DESIGN CHOICE, safe: any positive rational
(assumption log 9). -/
structure TickRate where
  num : Nat
  den : Nat
deriving DecidableEq, Repr

/-- The implementation parameters of 00_scope.md R9, one field each, under the names of the table. -/
structure Params where
  /-- CPU_CLOCK_HZ -/
  cpuClockHz : Nat
  /-- TS_WIDTH -/
  tsWidth : Nat
  /-- PWM_DECIM -/
  pwmDecim : Nat
  /-- ADC_DECIM -/
  adcDecim : Nat
  /-- ADC_BITS -/
  adcBits : Nat
  /-- ADC_FULL_SCALE -/
  adcFullScale : Nat
  /-- FULL_SCALE_VOLTAGE -/
  fullScaleVoltage : Nat
  /-- MID_SCALE_VOLTAGE -/
  midScaleVoltage : Nat
  /-- CURRENT_INVERT -/
  currentInvert : Bool
  /-- RATED_BUS_VOLTAGE -/
  ratedBusVoltage : Nat
  /-- DUTY_MAX_THRESHOLD -/
  dutyMaxThreshold : Nat
  /-- MAX_STEP -/
  maxStep : Nat
  /-- MIN_FREQ -/
  minFreq : Nat
  /-- MAX_FREQ -/
  maxFreq : Nat
  /-- MAX_POWER -/
  maxPower : Nat
  /-- RUN_TICKS_MIN -/
  runTicksMin : Nat
  /-- RUN_TICKS_MAX -/
  runTicksMax : Nat
  /-- WAVEFORM_KIND -/
  waveformKind : WaveformKind
  /-- HAS_DEBUG_SETPOS -/
  hasDebugSetpos : Bool
  /-- DEFAULT_CONFIG -/
  defaultConfig : RequestedConfig
  /-- TICK_HZ -/
  tickHz : TickRate
deriving DecidableEq, Repr

/-- A configuration passes the checks of the setters (00_scope.md R10, last bullet; 43_state_machine.md R170 to R172). -/
abbrev RequestedConfig.PassesSetterChecks (p : Params) (c : RequestedConfig) : Prop :=
  (p.minFreq ≤ c.frequencyHz.toNat ∧ c.frequencyHz.toNat ≤ p.maxFreq)
    ∧ c.powerDeciWatts.toNat ≤ p.maxPower
    ∧ (c.runMode = .timed → p.runTicksMin ≤ c.runTimerTicks.toNat ∧ c.runTimerTicks.toNat ≤ p.runTicksMax)

/-- The legal range of each single parameter, row by row of the table of 00_scope.md R9. -/
abbrev Params.InRange (p : Params) : Prop :=
  (1 ≤ p.cpuClockHz ∧ p.cpuClockHz < 2 ^ 32)
    ∧ (1 ≤ p.tsWidth ∧ p.tsWidth ≤ 16)
    ∧ (1 ≤ p.pwmDecim ∧ p.pwmDecim ≤ 65535)
    ∧ (1 ≤ p.adcDecim ∧ p.adcDecim ≤ 65535)
    ∧ (1 ≤ p.adcBits ∧ p.adcBits ≤ 16)
    ∧ (1 ≤ p.adcFullScale ∧ p.adcFullScale < 2 ^ 32)
    ∧ p.fullScaleVoltage < 2 ^ 32
    ∧ p.midScaleVoltage < 2 ^ 32
    ∧ p.ratedBusVoltage ≤ 65535
    ∧ p.dutyMaxThreshold ≤ 1000
    ∧ p.maxStep ≤ 255
    ∧ (p.minFreq ≤ 65535 ∧ p.maxFreq ≤ 65535)
    ∧ p.maxPower ≤ 65535
    ∧ (p.runTicksMin ≤ 65535 ∧ p.runTicksMax ≤ 65535)
    ∧ (1 ≤ p.tickHz.num ∧ 1 ≤ p.tickHz.den)

/-- The parameter sets the model accepts: the ranges of 00_scope.md R9 and the constraints of R10. A set outside is
refused, with no behaviour (R10, 93 IMP5). -/
abbrev Params.Legal (p : Params) : Prop :=
  p.InRange
    ∧ p.minFreq ≤ p.maxFreq
    ∧ p.runTicksMin ≤ p.runTicksMax
    ∧ p.defaultConfig.PassesSetterChecks p

/-- The test parameter set P0 of 95_test_vectors.md section 1. DESIGN CHOICE, unsafe: the spec leaves every value open
(D11), so which set the machine after reset carries is the model's choice (assumption log 1); the spec says P0 is "not
a claim about the original product". -/
def Params.p0 : Params where
  cpuClockHz := 16000000
  tsWidth := 16
  pwmDecim := 1
  adcDecim := 1
  adcBits := 10
  adcFullScale := 1024
  fullScaleVoltage := 1024
  midScaleVoltage := 512
  currentInvert := false
  ratedBusVoltage := 24
  dutyMaxThreshold := 900
  maxStep := 100
  minFreq := 20000
  maxFreq := 40000
  maxPower := 5000
  runTicksMin := 1
  runTicksMax := 65535
  waveformKind := ⟨0⟩
  hasDebugSetpos := true
  defaultConfig :=
    { frequencyHz := 28000, powerDeciWatts := 0, runMode := .continuous, runTimerTicks := 1,
      controlMode := .constantFrequency, input1 := ⟨.unused, false⟩, input2 := ⟨.unused, false⟩ }
  tickHz := ⟨25, 1⟩

end Sys2Proof
end

