-- ==== Sys2Proof/Machine/State.lean ====
section
/-! DEFINITION. The machine's state as plain data: the spec's tuple (cfg, st, pwm, adc, log) of 10_state.md R30, and
the model's own fields (the instance's parameters, the stimuli not yet performed, the responses given). Also the reset
state of 70_reset_and_hazards.md R261 and the ways a step can stop. -/

namespace Sys2Proof.Machine

/-- The agents of 00_scope.md R8 that submit operation words or reset. -/
inductive Agent where
  | host
  | scheduler
  | captureUnit
  | adc
  | debouncer
  | resetSource
deriving DecidableEq, Repr

/-- A stimulus: an operation word and who submitted it, or the reset signal, which is no word (00_scope.md R8,
70_reset_and_hazards.md R260). -/
inductive Stimulus where
  | operation (agent : Agent) (word : OpWord)
  | reset
deriving DecidableEq, Repr

/-- The response codes (60_exceptions.md R221). Codes 5 to 15 are never produced, so they have no name here. -/
inductive ResponseCode where
  | ok
  | errReserved
  | errRange
  | errEstop
  | errDisabled
deriving DecidableEq, Repr

/-- The response of one operation and the agent it goes back to (60_exceptions.md R220). -/
structure Response where
  agent : Agent
  code : ResponseCode
  data : Half
deriving DecidableEq, Repr

/-- An output event: one write to a collaborator (10_state.md R46). -/
inductive OutputEvent where
  | potWrite (pos : BitVec 8)
  | genFreqWrite (hz : Half)
  | genOn (kind : WaveformKind) (hz : Half)
  | genOff
  | adcRestart
  | announce (id : InputId) (asserted : Bool)
deriving DecidableEq, Repr

/-- `S.pwm.phase`, the edge awaited (10_state.md R44). -/
inductive Phase where
  | waitFall
  | waitRise1
  | waitRise2
deriving DecidableEq, Repr

/-- The LiveStatus record (10_state.md R37 to R40). -/
structure LiveStatus where
  /-- Hz (R37) -/
  measuredFrequencyHz : Half
  /-- tenths of a percent, 0 to 1000 (R37, R52) -/
  measuredDutyCycleDeciPercent : Half
  /-- tenths of an ampere (R37) -/
  measuredCurrentDeciAmps : Half
  /-- tenths of a watt (R37) -/
  measuredPowerDeciWatts : Half
  /-- potentiometer step, 0 to MAX_STEP (R38) -/
  actuatorPosition : BitVec 8
  /-- ticks left in a timed run (R39) -/
  runCountdownTicks : Half
  /-- the EStop flag (R40) -/
  isEmergencyStopped : Bool
  /-- the output enable flag (R40) -/
  isOutputEnabled : Bool
deriving DecidableEq, Repr

/-- The PWM accumulator and capture sequencer (10_state.md R43, R44). The timestamps are TS_WIDTH bits, held in 16
(DESIGN CHOICE, safe: assumption log 17). -/
structure PwmAccumulator where
  onSum : BitVec 32
  periodSum : BitVec 32
  count : Half
  phase : Phase
  skip : Half
  tFall : Half
  tRise1 : Half
deriving DecidableEq, Repr

/-- The ADC accumulator (10_state.md R45). -/
structure AdcAccumulator where
  sum : BitVec 32
  count : Half
  skip : Half
deriving DecidableEq, Repr

/-- The state. The first five fields are the spec's whole state (10_state.md R30); the other four are the model's. -/
structure State where
  /-- the requested configuration (10_state.md R31) -/
  cfg : RequestedConfig
  /-- the live status (10_state.md R37 to R40) -/
  st : LiveStatus
  /-- the PWM accumulator and capture sequencer (10_state.md R43, R44) -/
  pwm : PwmAccumulator
  /-- the ADC accumulator (10_state.md R45) -/
  adc : AdcAccumulator
  /-- the output event log, oldest first (10_state.md R46) -/
  log : List OutputEvent
  /-- MODEL's own: the instance's parameters (00_scope.md R9), written by no step (assumption log 1) -/
  params : Params
  /-- MODEL's own: the stimuli submitted and not yet performed, in arrival order (assumption log 2) -/
  inbox : List Stimulus
  /-- MODEL's own: the agent whose operation is being performed (assumption log 3) -/
  submitter : Agent
  /-- MODEL's own: the responses given, oldest first; no rule reads them (assumption log 3) -/
  responses : List Response
deriving DecidableEq, Repr

/-- Why a step faults: never. "No behaviour of the PRC is treated as fault" (93_implementation_defined.md section 2,
60_exceptions.md R223 to R225), so there is no constructor and nobody raises one (assumption log 5). -/
inductive Fault where
deriving DecidableEq, Repr

/-- Why a step is refused. -/
inductive Refusal where
  /-- Raised by an arm of `exec` whose instruction has no meaning yet; no arm does. Safe: the model stops. -/
  | notModelled (mnemonic : String)
  /-- Raised by `step` when the instance's parameters are outside 00_scope.md R9 and R10: "A model refuses a parameter
  set that breaks one of these". Safe: the model stops where the spec defines no behaviour (93 IMP5;
  assumption log 13). -/
  | illegalParameters
deriving DecidableEq, Repr

/-- The reset state of an instance, field by field (70_reset_and_hazards.md R261), with nothing submitted. -/
def State.resetOf (p : Params) : State where
  cfg := p.defaultConfig
  st :=
    { measuredFrequencyHz := 0, measuredDutyCycleDeciPercent := 0, measuredCurrentDeciAmps := 0,
      measuredPowerDeciWatts := 0, actuatorPosition := 0, runCountdownTicks := 0,
      isEmergencyStopped := true, isOutputEnabled := false }
  pwm := { onSum := 0, periodSum := 0, count := 0, phase := .waitFall, skip := 0, tFall := 0, tRise1 := 0 }
  adc := { sum := 0, count := 0, skip := 0 }
  log := [.genOff, .potWrite 0, .adcRestart]
  params := p
  inbox := []
  submitter := .host
  responses := []

/-- The machine right after reset (70_reset_and_hazards.md R261). DESIGN CHOICE, unsafe: as the instance of parameter
set P0 (assumption log 1). -/
def State.reset : State := State.resetOf Params.p0

end Sys2Proof.Machine
end

