-- ==== Sys2Proof/Machine/Flags.lean ====
section
/-! DEFINITION. The status flags' views. The PRC has no condition codes: no operation sets a flag from an arithmetic
result (10_state.md R40), so there is no flag computation here; the operating state (R41), the output levels (R47) and
the numeric response codes (60_exceptions.md R221) are functions of what the state holds. -/

namespace Sys2Proof.Machine

/-- The four operating states (10_state.md R41). -/
inductive OpState where
  | eStopped
  | idle
  | running (mode : RunMode)
deriving DecidableEq, Repr

/-- `opState(S)`: a view of the two flags and of the run mode as it is now (10_state.md R41). -/
def opState (s : State) : OpState :=
  if s.st.isEmergencyStopped then .eStopped
  else if s.st.isOutputEnabled then .running s.cfg.runMode
  else .idle

/-- The level OUT_EN (10_state.md R47). -/
def outEn (s : State) : Bool := s.st.isOutputEnabled

/-- The level POT_POS (10_state.md R47). -/
def potPos (s : State) : BitVec 8 := s.st.actuatorPosition

/-- The level GEN_FREQ (10_state.md R47). -/
def genFreq (s : State) : Half := s.cfg.frequencyHz

/-- The 4-bit value of a response code (60_exceptions.md R220, R221). -/
def ResponseCode.bits : ResponseCode → BitVec 4
  | .ok => 0
  | .errReserved => 1
  | .errRange => 2
  | .errEstop => 3
  | .errDisabled => 4

end Sys2Proof.Machine
end

