-- ==== Sys2Proof/Syntax.lean ====
section
/-! DEFINITION. The operations of the PRC, one constructor per row of spec/opcode_table.json (30_encoding.md R93).
Operands are the row's fields after decoding: register numbers, modes and ids are names, immediates are 16-bit words. -/

namespace Sys2Proof

/-- An operation. Each constructor names the rule of its meaning. -/
inductive Instr where
  /-- SETFREQ hz (43_state_machine.md R170) -/
  | setfreq (hz : Half)
  /-- SETPWR deciWatts (43_state_machine.md R171) -/
  | setpwr (deciWatts : Half)
  /-- SETRUN mode, ticks (43_state_machine.md R172); the ticks field is kept for Continuous too, where it is ignored -/
  | setrun (mode : RunMode) (ticks : Half)
  /-- SETCTL mode (43_state_machine.md R173) -/
  | setctl (mode : ControlMode)
  /-- SETBIND id, action, announce (44_inputs.md R200) -/
  | setbind (id : InputId) (action : InputAction) (announce : Bool)
  /-- TURNON (43_state_machine.md R165) -/
  | turnon
  /-- TURNOFF (43_state_machine.md R166) -/
  | turnoff
  /-- SETESTOP value (43_state_machine.md R167) -/
  | setestop (value : Bool)
  /-- SETPOS step (42_actuator.md R153) -/
  | setpos (step : Half)
  /-- READREG idx (45_readback.md R210) -/
  | readreg (idx : BitVec 4)
  /-- TICK (41_tick.md R130) -/
  | tick
  /-- PWMEDGE rising, ts (40_aggregator.md R110); ts is TS_WIDTH bits in a 16-bit field -/
  | pwmedge (rising : Bool) (ts : Half)
  /-- ADCDONE value (40_aggregator.md R112); value is ADC_BITS bits in a 16-bit field -/
  | adcdone (value : Half)
  /-- INEDGE id, asserted (44_inputs.md R201) -/
  | inedge (id : InputId) (asserted : Bool)
deriving DecidableEq, Repr

end Sys2Proof
end

