-- ==== Sys2Proof/WellFormed.lean ====
section
/-! DEFINITION. Which operations an instance's decoder can produce. Only the two sample operations have a field whose
width is a parameter (30_encoding.md R93: tsHigh and adcHigh must be zero); every other operand fits by its type. -/

namespace Sys2Proof

/-- The operand checks that the types do not make already: a timestamp fits TS_WIDTH bits and a conversion value fits
ADC_BITS bits (30_encoding.md R93; 40_aggregator.md R110, R112). -/
abbrev Instr.WellFormed (p : Params) : Instr → Prop
  | .setfreq _ => True
  | .setpwr _ => True
  | .setrun _ _ => True
  | .setctl _ => True
  | .setbind _ _ _ => True
  | .turnon => True
  | .turnoff => True
  | .setestop _ => True
  | .setpos _ => True
  | .readreg _ => True
  | .tick => True
  | .pwmedge _ ts => ts.toNat < 2 ^ p.tsWidth
  | .adcdone value => value.toNat < 2 ^ p.adcBits
  | .inedge _ _ => True

end Sys2Proof
end

