-- ==== Sys2Proof/Decode.lean ====
section
/-! DEFINITION. The decoder of 30_encoding.md R93 and R95 (the opcode map as data, the decode procedure as a walk down
it), the encoder written from the same map, the numeric encodings of the enumerations (92_eei_decisions.md D8), and the
byte order of a transport (20_memory.md R62). -/

namespace Sys2Proof

/-! ### Encodings of the enumerated values (30_encoding.md R92, 92_eei_decisions.md D8) -/

/-- runMode: 0 Continuous, 1 Timed. -/
def RunMode.code : RunMode → BitVec 1
  | .continuous => 0
  | .timed => 1

/-- The run mode of a one-bit field. -/
def RunMode.ofCode (b : BitVec 1) : RunMode := if b = 0 then .continuous else .timed

/-- controlMode: 0 ConstantFrequency, 1 MaxEfficiency. -/
def ControlMode.code : ControlMode → BitVec 1
  | .constantFrequency => 0
  | .maxEfficiency => 1

/-- The control mode of a one-bit field. -/
def ControlMode.ofCode (b : BitVec 1) : ControlMode := if b = 0 then .constantFrequency else .maxEfficiency

/-- action: 0 Unused, 1 MomentaryControl, 2 ToggleControl, 3 EmergencyStop. -/
def InputAction.code : InputAction → BitVec 2
  | .unused => 0
  | .momentaryControl => 1
  | .toggleControl => 2
  | .emergencyStop => 3

/-- The action of a two-bit field; all four values are legal (10_state.md R55). -/
def InputAction.ofCode (b : BitVec 2) : InputAction :=
  if b = 0 then .unused else if b = 1 then .momentaryControl else if b = 2 then .toggleControl else .emergencyStop

/-- id: 1 and 2 (92_eei_decisions.md D30). -/
def InputId.code : InputId → BitVec 2
  | .input1 => 1
  | .input2 => 2

/-- The input of a two-bit id field; 0 and 3 are no input (the field constraint of 30_encoding.md R93). -/
def InputId.ofCode (b : BitVec 2) : Option InputId :=
  if b = 1 then some .input1 else if b = 2 then some .input2 else none

/-- A one-bit field read as a truth value: 1 is true (30_encoding.md R92). -/
def flagOfBit (b : BitVec 1) : Bool := b == 1

/-! ### The opcode map -/

/-- A row of the opcode map: a word selects the row when `(w & mask) = matchBits`; `fields` reads the operands and
answers `none` when the row's field constraint does not hold (30_encoding.md R93). -/
structure Row where
  matchBits : OpWord
  mask : OpWord
  fields : OpWord → Option Instr

/-- A word selects a row (30_encoding.md R93). -/
abbrev Row.Selects (r : Row) (w : OpWord) : Prop := w &&& r.mask = r.matchBits

/-- `0xFFFF AND NOT (2^width - 1)`, the must-be-zero bits of IMM above a field of that width: tsHigh with TS_WIDTH,
adcHigh with ADC_BITS (30_encoding.md R93). -/
def immHigh (width : Nat) : OpWord := 0xFFFF &&& ~~~(BitVec.ofNat 32 (2 ^ width - 1))

/-- The opcode map of 30_encoding.md R93, in its order. Two masks depend on the instance's TS_WIDTH and ADC_BITS. -/
def opcodeMap (p : Params) : List Row :=
  [ { matchBits := 0x01000000, mask := 0xFFFF0000
      fields := fun w => some (.setfreq (w.extractLsb' 0 16)) },
    { matchBits := 0x02000000, mask := 0xFFFF0000
      fields := fun w => some (.setpwr (w.extractLsb' 0 16)) },
    { matchBits := 0x03000000, mask := 0xFFFE0000
      fields := fun w => some (.setrun (RunMode.ofCode (w.extractLsb' 16 1)) (w.extractLsb' 0 16)) },
    { matchBits := 0x04000000, mask := 0xFFFEFFFF
      fields := fun w => some (.setctl (ControlMode.ofCode (w.extractLsb' 16 1))) },
    { matchBits := 0x05000000, mask := 0xFFC8FFFF
      fields := fun w => (InputId.ofCode (w.extractLsb' 20 2)).map
        (.setbind · (InputAction.ofCode (w.extractLsb' 16 2)) (flagOfBit (w.extractLsb' 18 1))) },
    { matchBits := 0x06000000, mask := 0xFFFFFFFF
      fields := fun _ => some .turnon },
    { matchBits := 0x07000000, mask := 0xFFFFFFFF
      fields := fun _ => some .turnoff },
    { matchBits := 0x08000000, mask := 0xFFFEFFFF
      fields := fun w => some (.setestop (flagOfBit (w.extractLsb' 16 1))) },
    { matchBits := 0x09000000, mask := 0xFFFF0000
      fields := fun w => some (.setpos (w.extractLsb' 0 16)) },
    { matchBits := 0x0A000000, mask := 0xFFF0FFFF
      fields := fun w => some (.readreg (w.extractLsb' 16 4)) },
    { matchBits := 0x10000000, mask := 0xFFFFFFFF
      fields := fun _ => some .tick },
    { matchBits := 0x20000000, mask := 0xFFFE0000 ||| immHigh p.tsWidth
      fields := fun w => some (.pwmedge (flagOfBit (w.extractLsb' 16 1)) (w.extractLsb' 0 16)) },
    { matchBits := 0x30000000, mask := 0xFFFF0000 ||| immHigh p.adcBits
      fields := fun w => some (.adcdone (w.extractLsb' 0 16)) },
    { matchBits := 0x40000000, mask := 0xFFCEFFFF
      fields := fun w => (InputId.ofCode (w.extractLsb' 20 2)).map
        (.inedge · (flagOfBit (w.extractLsb' 16 1))) } ]

/-! ### The decode procedure -/

/-- Why a word is reserved: the classes of 30_encoding.md R96. Every one of them is answered alike, with ERR_RESERVED
(60_exceptions.md R221); the name only says which (DESIGN CHOICE, safe: assumption log 15). -/
inductive ReservedCause where
  /-- an OP that no row lists, below the custom space -/
  | unlistedOpcode
  /-- OP 0xF0 to 0xFF, the custom space, which no rule gives a meaning -/
  | customSpace
  /-- a listed OP with a must-be-zero bit set -/
  | mustBeZeroBit
  /-- SETBIND or INEDGE with id 0 or 3 -/
  | inputId
deriving DecidableEq, Repr

/-- The outcome of decoding a word (30_encoding.md R95): an operation with its fields, or RESERVED. -/
inductive Decoded where
  | operation (i : Instr)
  | reserved (cause : ReservedCause)
deriving DecidableEq, Repr

/-- The OP bytes of the opcode map (30_encoding.md R93; R96 lists the complement). -/
def listedOpcodes : List Byte :=
  [0x01, 0x02, 0x03, 0x04, 0x05, 0x06, 0x07, 0x08, 0x09, 0x0A, 0x10, 0x20, 0x30, 0x40]

/-- The class of a word that selects no row (30_encoding.md R96). -/
def unselectedCause (w : OpWord) : ReservedCause :=
  let op : Byte := w.extractLsb' 24 8
  if op ∈ listedOpcodes then .mustBeZeroBit else if 0xF0 ≤ op then .customSpace else .unlistedOpcode

/-- The loop of 30_encoding.md R95 over the rows of the map: the first row the word selects decides. -/
def decodeRows (rows : List Row) (w : OpWord) : Decoded :=
  match rows with
  | [] => .reserved (unselectedCause w)
  | r :: rest =>
    if r.Selects w then
      match r.fields w with
      | some i => .operation i
      | none => .reserved .inputId
    else decodeRows rest w

/-- The decoder of an instance: every 32-bit word decodes to exactly one outcome (30_encoding.md R95). -/
def decode (p : Params) (w : OpWord) : Decoded := decodeRows (opcodeMap p) w

/-! ### The encoder -/

/-- The one format: `{OP, A, IMM}` (30_encoding.md R90, R91). -/
def assembleWord (op a : Byte) (imm : Half) : OpWord := (op ++ a ++ imm : BitVec (8 + 8 + 16))

/-- The A field with the low bit used and w[23:17] zero. -/
def lowBitA (b : BitVec 1) : Byte := ((0 : BitVec 7) ++ b : BitVec (7 + 1))

/-- The A field of SETBIND: id at w[21:20], announce at w[18], action at w[17:16] (30_encoding.md R93). -/
def bindA (id : InputId) (action : InputAction) (announce : Bool) : Byte :=
  ((0 : BitVec 2) ++ id.code ++ (0 : BitVec 1) ++ BitVec.ofBool announce ++ action.code : BitVec (2 + 2 + 1 + 1 + 2))

/-- The A field of INEDGE: id at w[21:20], asserted at w[16] (30_encoding.md R93). -/
def inedgeA (id : InputId) (asserted : Bool) : Byte :=
  ((0 : BitVec 2) ++ id.code ++ (0 : BitVec 3) ++ BitVec.ofBool asserted : BitVec (2 + 2 + 3 + 1))

/-- The operation word of an operation (30_encoding.md R93, R98). An operand too wide for the instance's TS_WIDTH or
ADC_BITS still has a word, one that the decoder answers RESERVED. -/
def encode : Instr → OpWord
  | .setfreq hz => assembleWord 0x01 0 hz
  | .setpwr deciWatts => assembleWord 0x02 0 deciWatts
  | .setrun mode ticks => assembleWord 0x03 (lowBitA mode.code) ticks
  | .setctl mode => assembleWord 0x04 (lowBitA mode.code) 0
  | .setbind id action announce => assembleWord 0x05 (bindA id action announce) 0
  | .turnon => assembleWord 0x06 0 0
  | .turnoff => assembleWord 0x07 0 0
  | .setestop value => assembleWord 0x08 (lowBitA (BitVec.ofBool value)) 0
  | .setpos step => assembleWord 0x09 0 step
  | .readreg idx => assembleWord 0x0A ((0 : BitVec 4) ++ idx : BitVec (4 + 4)) 0
  | .tick => assembleWord 0x10 0 0
  | .pwmedge rising ts => assembleWord 0x20 (lowBitA (BitVec.ofBool rising)) ts
  | .adcdone value => assembleWord 0x30 0 value
  | .inedge id asserted => assembleWord 0x40 (inedgeA id asserted) 0

/-! ### A transport that carries words as bytes (20_memory.md R62) -/

/-- Little-endian: byte 0 is w[7:0], byte 3 is w[31:24]. -/
def bytesOfWord (w : OpWord) : List Byte :=
  [w.extractLsb' 0 8, w.extractLsb' 8 8, w.extractLsb' 16 8, w.extractLsb' 24 8]

/-- A readback value as bytes, in the same order. -/
def bytesOfHalf (v : Half) : List Byte := [v.extractLsb' 0 8, v.extractLsb' 8 8]

/-- The operation word that four bytes carry; any other number of bytes is no operation word (30_encoding.md R91). -/
def wordOfBytes : List Byte → Option OpWord
  | [b0, b1, b2, b3] => some (b3 ++ b2 ++ b1 ++ b0 : BitVec (8 + 8 + 8 + 8))
  | _ => none

/-- What a transport can hand the decoder. DESIGN CHOICE, safe: a byte string that is not one word is named and decodes
to nothing (assumption log 10). -/
inductive TransportError where
  | notOneWord (length : Nat)
deriving DecidableEq, Repr

/-- Decoding of any bytes: total, refusing by name. -/
def decodeBytes (p : Params) (bs : List Byte) : Except TransportError Decoded :=
  match wordOfBytes bs with
  | some w => .ok (decode p w)
  | none => .error (.notOneWord bs.length)

/-- The operation an instance of parameter set P0 decodes from the word of a table row: the row's bits below `nbits`,
zeros above, carried as four little-endian bytes. DESIGN CHOICE, safe: the table's masks are P0's (assumption log 11). -/
def decodeTableWord (nbits w : Nat) : Option Instr :=
  match decodeBytes .p0 (bytesOfWord (BitVec.ofNat 32 (w % 2 ^ nbits))) with
  | .ok (.operation i) => some i
  | .ok (.reserved _) => none
  | .error _ => none

end Sys2Proof
end

