-- ==== Sys2Proof/Machine/Operands.lean ====
section
/-! DEFINITION. The arithmetic of 00_scope.md R12 (exact integers, narrowed where an operator says so), and the
operands read from the state: an input's binding and a readback register (20_memory.md R61). -/

namespace Sys2Proof.Machine

/-! ### Arithmetic (00_scope.md R12) -/

/-- `clamp(v, lo, hi) = min(max(v, lo), hi)`. -/
def clamp (v lo hi : Int) : Int := min (max v lo) hi

/-- `satU_N(v)`: saturating conversion to an unsigned N-bit field. -/
def satU (n : Nat) (v : Int) : BitVec n := BitVec.ofNat n (clamp v 0 (2 ^ n - 1)).toNat

/-- `addsat_N(a, b) = satU_N(a + b)`. -/
def addsat {n : Nat} (a : BitVec n) (b : Nat) : BitVec n := satU n ((a.toNat : Int) + b)

/-- `a -%N b = (a - b) mod 2^N`: modular subtraction of N-bit timestamps. -/
def subMod (n : Nat) (a b : Half) : Nat := (((a.toNat : Int) - b.toNat) % 2 ^ n).toNat

/-! ### Input bindings (10_state.md R36) -/

/-- `S.cfg.input[id]`. -/
def bindingOf (c : RequestedConfig) : InputId → InputBinding
  | .input1 => c.input1
  | .input2 => c.input2

/-- `S.cfg.input[id] <- b`. -/
def withBinding (c : RequestedConfig) (id : InputId) (b : InputBinding) : RequestedConfig :=
  match id with
  | .input1 => { c with input1 := b }
  | .input2 => { c with input2 := b }

/-! ### The readback space (20_memory.md R60, R61; 10_state.md R54) -/

/-- CFG_MODE: `{controlMode, runMode}`, the other bits 0. -/
def cfgModeWord (c : RequestedConfig) : Half := (c.controlMode.code ++ c.runMode.code : BitVec (1 + 1)).setWidth 16

/-- CFG_INPUTS: `{input[2].announce, input[2].action, 0b0, input[1].announce, input[1].action}`, the other bits 0. -/
def cfgInputsWord (c : RequestedConfig) : Half :=
  (BitVec.ofBool c.input2.announce ++ c.input2.action.code ++ (0 : BitVec 1)
    ++ BitVec.ofBool c.input1.announce ++ c.input1.action.code : BitVec (1 + 2 + 1 + 1 + 2)).setWidth 16

/-- ST_FLAGS: `{isEmergencyStopped, isOutputEnabled}`, the other bits 0. -/
def stFlagsWord (st : LiveStatus) : Half :=
  (BitVec.ofBool st.isEmergencyStopped ++ BitVec.ofBool st.isOutputEnabled : BitVec (1 + 1)).setWidth 16

/-- `RegRead(idx)`, 0 ≤ idx ≤ 15: the one address space, sixteen read-only 16-bit locations (20_memory.md R60, R61).
Indices 0xC to 0xF are reserved and read as 0 (R66). -/
def regRead (s : State) (idx : BitVec 4) : Half :=
  match idx.toNat with
  | 0x0 => s.cfg.frequencyHz
  | 0x1 => s.cfg.powerDeciWatts
  | 0x2 => s.cfg.runTimerTicks
  | 0x3 => cfgModeWord s.cfg
  | 0x4 => cfgInputsWord s.cfg
  | 0x5 => s.st.measuredFrequencyHz
  | 0x6 => s.st.measuredDutyCycleDeciPercent
  | 0x7 => s.st.measuredCurrentDeciAmps
  | 0x8 => s.st.measuredPowerDeciWatts
  | 0x9 => s.st.actuatorPosition.setWidth 16
  | 0xA => s.st.runCountdownTicks
  | 0xB => stFlagsWord s.st
  | _ => 0

end Sys2Proof.Machine
end

