-- ==== Sys2Proof/Machine/Ops.lean ====
section
/-! DEFINITION. The named operations the meanings are made of: responses and events (00_scope.md R14), the actuator
primitives (42_actuator.md), the state machine's transitions (43_state_machine.md), the drains (40_aggregator.md), the
three stages of a tick (41_tick.md), and reset (70_reset_and_hazards.md R260). There are no exceptions to take or
return from (60_exceptions.md R223, R224): `reject` is what stands in their place (R220, R221). -/

namespace Sys2Proof.Machine

/-- What a step answers in this machine. -/
abbrev Result := Host.Outcome State Fault Refusal

/-! ### Primitives (00_scope.md R14) -/

/-- `emit(e)`: appends an output event to the log (10_state.md R46). -/
def emit (e : OutputEvent) (s : State) : State := { s with log := s.log ++ [e] }

/-- `respond(code, data)`: sets the operation's response and ends it; the response goes back to the agent that
submitted the operation (60_exceptions.md R220). -/
def respond (code : ResponseCode) (data : Half) (s : State) : Result :=
  .next { s with responses := s.responses ++ [⟨s.submitter, code, data⟩] }

/-- `reject(code)`: `respond(code, 0)` with no state change and no event (00_scope.md R14). -/
def reject (code : ResponseCode) (s : State) : Result := respond code 0 s

/-! ### The actuator (42_actuator.md R150 to R152) -/

/-- `S.st.actuatorPosition <- v`, and the hardware write of it. MAX_STEP is at most 255 in a legal instance, so every
value written here fits the 8 bits (assumption log 6). -/
def movePosition (v : Nat) (s : State) : State :=
  emit (.potWrite (BitVec.ofNat 8 v)) { s with st := { s.st with actuatorPosition := BitVec.ofNat 8 v } }

/-- `ActSet(v)`: clamped to [0, MAX_STEP]; always writes the hardware (R150). -/
def actSet (v : Nat) (s : State) : State := movePosition (min v s.params.maxStep) s

/-- `ActIncrement()`: one step up, or nothing at MAX_STEP (R151). -/
def actIncrement (s : State) : State :=
  if s.st.actuatorPosition.toNat < s.params.maxStep then movePosition (s.st.actuatorPosition.toNat + 1) s else s

/-- `ActDecrement()`: one step down, or nothing at 0 (R152). -/
def actDecrement (s : State) : State :=
  if 0 < s.st.actuatorPosition.toNat then movePosition (s.st.actuatorPosition.toNat - 1) s else s

/-! ### Transitions of the operating state (43_state_machine.md R160 to R162) -/

/-- `TurnOn()`: refused while EStopped, from Idle enables the output and loads the countdown of a timed run, otherwise
changes nothing. The truth value is what it returns: whether the output is enabled afterwards (R160). -/
def turnOn (s : State) : Bool × State :=
  if s.st.isEmergencyStopped then (false, s)
  else if s.st.isOutputEnabled then (true, s)
  else
    let countdown := if s.cfg.runMode = .timed then s.cfg.runTimerTicks else s.st.runCountdownTicks
    (true, emit (.genOn s.params.waveformKind s.cfg.frequencyHz)
      { s with st := { s.st with isOutputEnabled := true, runCountdownTicks := countdown } })

/-- `TurnOff()`: output off, countdown 0, GEN_OFF on every call; EStop and the actuator stay as they are (R161). -/
def turnOff (s : State) : State :=
  emit .genOff { s with st := { s.st with isOutputEnabled := false, runCountdownTicks := 0 } }

/-- `SetEStop(b)`: enter EStopped through TurnOff, or leave it without resuming the output (R162). -/
def setEStop (b : Bool) (s : State) : State :=
  if b then turnOff { s with st := { s.st with isEmergencyStopped := true } }
  else { s with st := { s.st with isEmergencyStopped := false } }

/-! ### The drains (40_aggregator.md R114, R115) -/

/-- `DrainPWM()`: the triple (on, per, cnt), the three counters zeroed, the capture sequencer left alone (R114). -/
def drainPwm (s : State) : (Nat × Nat × Nat) × State :=
  ((s.pwm.onSum.toNat, s.pwm.periodSum.toNat, s.pwm.count.toNat),
    { s with pwm := { s.pwm with onSum := 0, periodSum := 0, count := 0 } })

/-- `DrainADC()`: the pair (sum, cnt), both zeroed, `skip` left alone (R115). -/
def drainAdc (s : State) : (Nat × Nat) × State :=
  ((s.adc.sum.toNat, s.adc.count.toNat), { s with adc := { s.adc with sum := 0, count := 0 } })

/-! ### Stage 1 of a tick: the measurement reducer (41_tick.md R131) -/

/-- `f`: CPU_CLOCK_HZ * pcnt / per, 0 without a signal. -/
def frequencyOf (p : Params) (per pcnt : Nat) : Nat := if pcnt = 0 ∨ per = 0 then 0 else p.cpuClockHz * pcnt / per

/-- `d`: on * 1000 / per in tenths of a percent, 0 without a signal. -/
def dutyOf (on per pcnt : Nat) : Nat := if pcnt = 0 ∨ per = 0 then 0 else on * 1000 / per

/-- `c`: the signed current of the averaged conversions, before narrowing; 0 without a sample. -/
def currentOf (p : Params) (asum acnt : Nat) : Int :=
  if acnt = 0 then 0
  else
    let avg := asum / acnt
    let volt : Int := (avg * p.fullScaleVoltage / p.adcFullScale : Nat)
    if p.currentInvert then p.midScaleVoltage - volt else volt - p.midScaleVoltage

/-- `p`: current * RATED_BUS_VOLTAGE * duty / 1000, from the stored current and duty. -/
def powerOf (p : Params) (current duty : Half) : Nat := current.toNat * p.ratedBusVoltage * duty.toNat / 1000

/-- `Reduce(on, per, pcnt, asum, acnt)`: the four measured values, each narrowed by saturation, the power from the
narrowed current and duty (R131). -/
def reduce (on per pcnt asum acnt : Nat) (s : State) : State :=
  let duty : Half := satU 16 (dutyOf on per pcnt)
  let current : Half := satU 16 (currentOf s.params asum acnt)
  { s with st := { s.st with
      measuredFrequencyHz := satU 16 (frequencyOf s.params per pcnt)
      measuredDutyCycleDeciPercent := duty
      measuredCurrentDeciAmps := current
      measuredPowerDeciWatts := satU 16 (powerOf s.params current duty) } }

/-- Stage 1: both drains, then the reduction (41_tick.md R130). -/
def measure (s : State) : State :=
  let ((on, per, pcnt), s1) := drainPwm s
  let ((asum, acnt), s2) := drainAdc s1
  reduce on per pcnt asum acnt s2

/-! ### Stage 2 of a tick: the regulation loop (41_tick.md R133, R134) -/

/-- `Regulate()`: one bang-bang step, stopped by the saturation conditions (R133). The duty check of the upper branch is
kept though R131 makes it unreachable (R135). -/
def regulate (s : State) : State :=
  let m := s.st.measuredPowerDeciWatts.toNat
  let r := s.cfg.powerDeciWatts.toNat
  let d := s.st.measuredDutyCycleDeciPercent.toNat
  let pos := s.st.actuatorPosition.toNat
  if m > r then
    if d ≠ 0 ∧ pos ≠ 0 then actDecrement s else s
  else if m < r then
    if d ≤ s.params.dutyMaxThreshold ∧ pos ≠ s.params.maxStep then actIncrement s else s
  else s

/-- Stage 2 with its gate: only when the output is enabled and the mode is ConstantFrequency (R134). -/
def regulateStage (s : State) : State :=
  if s.st.isOutputEnabled ∧ s.cfg.controlMode = .constantFrequency then regulate s else s

/-! ### Stage 3 of a tick: the run countdown (41_tick.md R136) -/

/-- Stage 3 with its gate: the countdown does not go below 0, and reaching 0, from 0 too, turns the output off (R136). -/
def countdownStage (s : State) : State :=
  if s.st.isOutputEnabled ∧ s.cfg.runMode = .timed then
    let left := s.st.runCountdownTicks.toNat - 1
    let s1 := { s with st := { s.st with runCountdownTicks := BitVec.ofNat 16 left } }
    if s1.st.runCountdownTicks = 0 then turnOff s1 else s1
  else s

/-! ### The sample operations' accumulations (40_aggregator.md R110, R112) -/

/-- The decimation counter after one more event, and whether that event is the Nth, the one processed (R110, R112).
The counter stays below N in every state a legal instance reaches (10_state.md R53, assumption log 6). -/
def decimate (n : Nat) (skip : Half) : Bool × Half :=
  if skip.toNat + 1 = n then (true, 0) else (false, BitVec.ofNat 16 (skip.toNat + 1))

/-- The completed cycle of R110's WAIT_RISE2: period and low time are modular differences, the on-time is never
negative, and the sums and the count saturate. -/
def addCycle (p : Params) (ts : Half) (pwm : PwmAccumulator) : PwmAccumulator :=
  let period := subMod p.tsWidth ts pwm.tRise1
  let low := subMod p.tsWidth pwm.tRise1 pwm.tFall
  let onTime := period - min low period
  { pwm with
    periodSum := addsat pwm.periodSum period
    onSum := addsat pwm.onSum onTime
    count := addsat pwm.count 1
    phase := .waitFall }

/-- The three-phase edge state machine (R110): an edge of the polarity not awaited changes nothing. -/
def captureEdge (p : Params) (rising : Bool) (ts : Half) (pwm : PwmAccumulator) : PwmAccumulator :=
  match pwm.phase with
  | .waitFall =>
    if rising then pwm
    else
      let edge := decimate p.pwmDecim pwm.skip
      if edge.1 then { pwm with skip := edge.2, tFall := ts, phase := .waitRise1 } else { pwm with skip := edge.2 }
  | .waitRise1 => if rising then { pwm with tRise1 := ts, phase := .waitRise2 } else pwm
  | .waitRise2 => if rising then addCycle p ts pwm else pwm

/-- One conversion: every Nth is added to the saturating sum and counted (R112). -/
def addConversion (p : Params) (value : Half) (adc : AdcAccumulator) : AdcAccumulator :=
  let conversion := decimate p.adcDecim adc.skip
  if conversion.1 then { sum := addsat adc.sum value.toNat, count := addsat adc.count 1, skip := conversion.2 }
  else { adc with skip := conversion.2 }

/-! ### Reset (70_reset_and_hazards.md R260) -/

/-- `Reset()`: starts a new log, loads DEFAULT_CONFIG, zeroes the status and the accumulators, forces EStopped, and
emits the three reset events in order. It returns no response. The parameters stay: they are the instance. What is
still to arrive and the responses already given lie outside the PRC's state and stay too (assumption log 4). -/
def performReset (s : State) : State :=
  let s1 := { s with
    log := []
    cfg := s.params.defaultConfig
    st := { s.st with
      measuredFrequencyHz := 0, measuredDutyCycleDeciPercent := 0, measuredCurrentDeciAmps := 0,
      measuredPowerDeciWatts := 0, runCountdownTicks := 0, isOutputEnabled := false, isEmergencyStopped := true }
    pwm := { onSum := 0, periodSum := 0, count := 0, phase := .waitFall, skip := 0, tFall := 0, tRise1 := 0 }
    adc := { sum := 0, count := 0, skip := 0 } }
  emit .adcRestart (actSet 0 (emit .genOff s1))

/-! ### Stimuli -/

/-- The next stimulus the PRC receives, and the state once it is taken: arrival order (20_memory.md R68,
60_exceptions.md R228). -/
def takeStimulus (s : State) : Option (Stimulus × State) :=
  match s.inbox with
  | [] => none
  | x :: rest => some (x, { s with inbox := rest })

end Sys2Proof.Machine
end

