-- ==== Sys2Proof/Machine/Actuator.lean ====
section
/-! DEFINITION. The debug position setter (42_actuator.md R153). -/

namespace Sys2Proof.Machine

/-- SETPOS (42_actuator.md R153): ERR_DISABLED in an instance without it; otherwise the step is clamped, never refused
for its value, and POT_WRITE is always emitted. -/
def execSetpos (step : Half) (s : State) : Result :=
  if s.params.hasDebugSetpos then respond .ok 0 (actSet step.toNat s) else reject .errDisabled s

end Sys2Proof.Machine
end

