-- ==== Sys2Proof/Machine/Capture.lean ====
section
/-! DEFINITION. The sample producers (40_aggregator.md R110, R112). The decoder never hands over an operand that is too
wide for the instance; the meanings keep the rules' own check all the same (assumption log 7). -/

namespace Sys2Proof.Machine

/-- PWMEDGE (40_aggregator.md R110): OK for an ignored edge too. -/
def execPwmedge (rising : Bool) (ts : Half) (s : State) : Result :=
  if ts.toNat < 2 ^ s.params.tsWidth then respond .ok 0 { s with pwm := captureEdge s.params rising ts s.pwm }
  else reject .errReserved s

/-- ADCDONE (40_aggregator.md R112): ADC_RESTART after every conversion, accumulated or not. -/
def execAdcdone (value : Half) (s : State) : Result :=
  if value.toNat < 2 ^ s.params.adcBits then
    respond .ok 0 (emit .adcRestart { s with adc := addConversion s.params value s.adc })
  else reject .errReserved s

end Sys2Proof.Machine
end

