-- ==== Sys2Proof/Machine/Control.lean ====
section
/-! DEFINITION. The state machine's commands (43_state_machine.md R165 to R167). -/

namespace Sys2Proof.Machine

/-- TURNON (43_state_machine.md R165): ERR_ESTOP, with nothing changed, when TurnOn is refused. -/
def execTurnon (s : State) : Result :=
  let (enabled, s1) := turnOn s
  if enabled then respond .ok 0 s1 else respond .errEstop 0 s1

/-- TURNOFF (43_state_machine.md R166): always succeeds. -/
def execTurnoff (s : State) : Result := respond .ok 0 (turnOff s)

/-- SETESTOP (43_state_machine.md R167). -/
def execSetestop (value : Bool) (s : State) : Result := respond .ok 0 (setEStop value s)

end Sys2Proof.Machine
end

