-- ==== Sys2Proof/Machine/Inputs.lean ====
section
/-! DEFINITION. The digital input dispatcher (44_inputs.md R200 to R202). -/

namespace Sys2Proof.Machine

/-- SETBIND (44_inputs.md R200): only later edges use the new binding. -/
def execSetbind (id : InputId) (action : InputAction) (announce : Bool) (s : State) : Result :=
  respond .ok 0 { s with cfg := withBinding s.cfg id ⟨action, announce⟩ }

/-- What an edge does by the action bound to its input (44_inputs.md R201); a TurnOn refused by EStop changes nothing
here and is not reported. -/
def inputAct (action : InputAction) (asserted : Bool) (s : State) : State :=
  match action with
  | .unused => s
  | .momentaryControl => if asserted then (turnOn s).2 else turnOff s
  | .toggleControl => if asserted then (if s.st.isOutputEnabled then turnOff s else (turnOn s).2) else s
  | .emergencyStop => if asserted then setEStop true s else s

/-- INEDGE (44_inputs.md R201): the action first, then ANNOUNCE on every edge of an announcing input; the response is OK
even when the TurnOn inside was refused. -/
def execInedge (id : InputId) (asserted : Bool) (s : State) : Result :=
  let b := bindingOf s.cfg id
  let s1 := inputAct b.action asserted s
  respond .ok 0 (if b.announce then emit (.announce id asserted) s1 else s1)

end Sys2Proof.Machine
end

