-- ==== Sys2Proof/Machine/Readback.lean ====
section
/-! DEFINITION. The getter (45_readback.md R210). -/

namespace Sys2Proof.Machine

/-- READREG (45_readback.md R210): every index is legal; no state changes and no event (20_memory.md R65). -/
def execReadreg (idx : BitVec 4) (s : State) : Result := respond .ok (regRead s idx) s

end Sys2Proof.Machine
end

