-- ==== Sys2Proof/Machine/Setters.lean ====
section
/-! DEFINITION. The configuration setters (43_state_machine.md R168, R170 to R173). Each validates its value before its
first write and answers ERR_RANGE with no effect for a value out of bounds; none reads or changes the operating state,
the actuator position or the countdown (R168). -/

namespace Sys2Proof.Machine

/-- SETFREQ (43_state_machine.md R170). -/
def execSetfreq (hz : Half) (s : State) : Result :=
  if hz.toNat < s.params.minFreq ∨ hz.toNat > s.params.maxFreq then reject .errRange s
  else respond .ok 0 (emit (.genFreqWrite hz) { s with cfg := { s.cfg with frequencyHz := hz } })

/-- SETPWR (43_state_machine.md R171). -/
def execSetpwr (deciWatts : Half) (s : State) : Result :=
  if deciWatts.toNat > s.params.maxPower then reject .errRange s
  else respond .ok 0 { s with cfg := { s.cfg with powerDeciWatts := deciWatts } }

/-- SETRUN (43_state_machine.md R172): Continuous ignores the ticks and keeps runTimerTicks; the countdown is not
touched. -/
def execSetrun (mode : RunMode) (ticks : Half) (s : State) : Result :=
  if mode = .timed ∧ (ticks.toNat < s.params.runTicksMin ∨ ticks.toNat > s.params.runTicksMax) then
    reject .errRange s
  else
    let kept := if mode = .timed then ticks else s.cfg.runTimerTicks
    respond .ok 0 { s with cfg := { s.cfg with runMode := mode, runTimerTicks := kept } }

/-- SETCTL (43_state_machine.md R173): both modes are accepted. -/
def execSetctl (mode : ControlMode) (s : State) : Result :=
  respond .ok 0 { s with cfg := { s.cfg with controlMode := mode } }

end Sys2Proof.Machine
end

