-- ==== Sys2Proof/Machine/Tick.lean ====
section
/-! DEFINITION. The scheduler's tick (41_tick.md R130). -/

namespace Sys2Proof.Machine

/-- TICK (41_tick.md R130): drain and reduce, then regulate, then count down, in that order (90_conflicts.md C2). -/
def execTick (s : State) : Result := respond .ok 0 (countdownStage (regulateStage (measure s)))

end Sys2Proof.Machine
end

