-- ==== Sys2Proof/Machine/Dispatch.lean ====
section
/-! DEFINITION. One arm per operation: the meaning it calls. -/

namespace Sys2Proof.Machine

def exec (i : Instr) (s : State) : Host.Outcome State Fault Refusal :=
  match i with
  | .setfreq hz => Sys2Proof.Machine.execSetfreq hz s
  | .setpwr deciWatts => Sys2Proof.Machine.execSetpwr deciWatts s
  | .setrun mode ticks => Sys2Proof.Machine.execSetrun mode ticks s
  | .setctl mode => Sys2Proof.Machine.execSetctl mode s
  | .setbind id action announce => Sys2Proof.Machine.execSetbind id action announce s
  | .turnon => Sys2Proof.Machine.execTurnon s
  | .turnoff => Sys2Proof.Machine.execTurnoff s
  | .setestop value => Sys2Proof.Machine.execSetestop value s
  | .setpos step => Sys2Proof.Machine.execSetpos step s
  | .readreg idx => Sys2Proof.Machine.execReadreg idx s
  | .tick => Sys2Proof.Machine.execTick s
  | .pwmedge rising ts => Sys2Proof.Machine.execPwmedge rising ts s
  | .adcdone value => Sys2Proof.Machine.execAdcdone value s
  | .inedge id asserted => Sys2Proof.Machine.execInedge id asserted s

end Sys2Proof.Machine
end

