-- ==== Sys2Proof/Machine/Perform.lean ====
section
/-! DEFINITION. Performing one submitted stimulus: the step of each agent (00_scope.md R8). The PRC does not check who
submits (92_eei_decisions.md D5); it only remembers whom to answer (60_exceptions.md R220). -/

namespace Sys2Proof.Machine

/-- The submission of one word by one agent, performed: decoded and run, or refused with ERR_RESERVED and no other effect
(30_encoding.md R95; 60_exceptions.md R221). -/
def performWord (agent : Agent) (w : OpWord) (s : State) : Result :=
  let s1 := { s with submitter := agent }
  match decode s.params w with
  | .operation i => exec i s1
  | .reserved _ => reject .errReserved s1

/-- One stimulus, performed as one atomic step (00_scope.md R13; 70_reset_and_hazards.md R260). -/
def perform (x : Stimulus) (s : State) : Result :=
  match x with
  | .operation agent w => performWord agent w s
  | .reset => .next (performReset s)

/-- The stimulus at the front of the inbox, performed; with nothing submitted the state is held (60_exceptions.md
R235; DEDUCED, assumption log 14). -/
def performNext (s : State) : Result :=
  match takeStimulus s with
  | none => .next s
  | some (x, s1) => perform x s1

end Sys2Proof.Machine
end

