-- ==== Sys2Proof/Machine/Step.lean ====
section
/-! DEFINITION. The step: an instance whose parameters are legal performs the next stimulus it has received. -/

namespace Sys2Proof.Machine

/-- One step. A parameter set outside 00_scope.md R9 and R10 is refused and gets no behaviour (R10, 93 IMP5; DEDUCED,
assumption log 13). -/
def step (s : State) : Host.Outcome State Fault Refusal :=
  if s.params.Legal then performNext s else .refused .illegalParameters

/-- The state with a table row's word submitted, ahead of anything else not yet performed, so that the next step performs
it. DESIGN CHOICE, safe: submitted by the host agent; the PRC does not check who submits (assumption log 2). -/
def State.withFetchWord (s : State) (nbits w : Nat) : State :=
  { s with inbox := .operation .host (BitVec.ofNat 32 (w % 2 ^ nbits)) :: s.inbox }

end Sys2Proof.Machine
end

