-- ==== Sys2Proof/Machine/Assembler.lean ====
section
/-! DEFINITION. The assembler syntax of 30_encoding.md R98 and the pseudo-instructions of R99: a line of text, the
operations it stands for, and their words. An operand that does not fit its field is refused, never truncated (R98). The
conventions R98 leaves open (blanks, letter case) are in assumption log 12. -/

namespace Sys2Proof.Machine

/-! ### A line's words -/

/-- A space, a tab or a carriage return. DESIGN CHOICE, safe: R98 names no blanks (assumption log 12). -/
def isBlank (c : Char) : Bool := c == ' ' || c == '\t' || c == '\r'

/-- The characters with the blanks at both ends taken off. -/
def trimBlanks (cs : List Char) : List Char := ((cs.dropWhile isBlank).reverse.dropWhile isBlank).reverse

/-- `;` starts a comment (R98). -/
def withoutComment (cs : List Char) : List Char := cs.takeWhile (· != ';')

/-- The operands, separated by commas (R98). -/
def splitAtCommas : List Char → List (List Char)
  | [] => [[]]
  | ',' :: cs => [] :: splitAtCommas cs
  | c :: cs =>
    match splitAtCommas cs with
    | [] => [[c]]
    | first :: others => (c :: first) :: others

/-- A line is a mnemonic and its operands; `none` when the line is blank or only a comment. -/
def lineParts (line : String) : Option (String × List String) :=
  let text := trimBlanks (withoutComment line.toList)
  let mnemonic := text.takeWhile (!isBlank ·)
  let operands := trimBlanks (text.drop mnemonic.length)
  if mnemonic = [] then none
  else some (String.ofList mnemonic,
    if operands = [] then [] else (splitAtCommas operands).map (fun cs => String.ofList (trimBlanks cs)))

/-! ### Operands -/

/-- A decimal digit's value. -/
def decimalDigit (c : Char) : Option Nat :=
  if '0' ≤ c ∧ c ≤ '9' then some (c.toNat - '0'.toNat) else none

/-- A hexadecimal digit's value, of either letter case. -/
def hexDigit (c : Char) : Option Nat :=
  if 'a' ≤ c ∧ c ≤ 'f' then some (c.toNat - 'a'.toNat + 10)
  else if 'A' ≤ c ∧ c ≤ 'F' then some (c.toNat - 'A'.toNat + 10)
  else decimalDigit c

/-- The value of a string of digits, most significant first, after the value `acc` of the digits before it. -/
def digitsValue (base : Nat) (digit : Char → Option Nat) (acc : Nat) : List Char → Option Nat
  | [] => some acc
  | c :: cs =>
    match digit c with
    | some d => digitsValue base digit (acc * base + d) cs
    | none => none

/-- A number: decimal, or hexadecimal with `0x` (R98). -/
def number? (text : String) : Option Nat :=
  match text.toList with
  | '0' :: 'x' :: c :: cs => digitsValue 16 hexDigit 0 (c :: cs)
  | c :: cs => digitsValue 10 decimalDigit 0 (c :: cs)
  | [] => none

/-- A number that fits a field of `n` bits; one that does not is refused (R98). -/
def field? (n : Nat) (text : String) : Option (BitVec n) :=
  match number? text with
  | some v => if v < 2 ^ n then some (BitVec.ofNat n v) else none
  | none => none

/-- An input id: 1 or 2 (R98: `INEDGE 3, ASSERT` is refused). -/
def inputId? (text : String) : Option InputId := (field? 2 text).bind InputId.ofCode

/-- SETBIND's action names (R98). -/
def action? : String → Option InputAction
  | "UNUSED" => some .unused
  | "MOMENTARY" => some .momentaryControl
  | "TOGGLE" => some .toggleControl
  | "ESTOP" => some .emergencyStop
  | _ => none

/-- The names of the readback registers (10_state.md R54). -/
def registerName? : String → Option (BitVec 4)
  | "CFG_FREQ" => some 0x0
  | "CFG_POWER" => some 0x1
  | "CFG_RUNTICKS" => some 0x2
  | "CFG_MODE" => some 0x3
  | "CFG_INPUTS" => some 0x4
  | "ST_FREQ" => some 0x5
  | "ST_DUTY" => some 0x6
  | "ST_CURRENT" => some 0x7
  | "ST_POWER" => some 0x8
  | "ST_POS" => some 0x9
  | "ST_COUNTDOWN" => some 0xA
  | "ST_FLAGS" => some 0xB
  | _ => none

/-! ### Lines -/

/-- The operations of one line (R98), a pseudo-instruction expanded (R99); `none` is a refusal. -/
def operationsOf (mnemonic : String) (operands : List String) : Option (List Instr) :=
  match mnemonic, operands with
  | "SETFREQ", [hz] => (field? 16 hz).map ([.setfreq ·])
  | "SETPWR", [dw] => (field? 16 dw).map ([.setpwr ·])
  | "SETRUN", ["CONT"] => some [.setrun .continuous 0]
  | "SETRUN", ["CONT", t] => (field? 16 t).map ([.setrun .continuous ·])
  | "SETRUN", ["TIMED", t] => (field? 16 t).map ([.setrun .timed ·])
  | "SETCTL", ["CF"] => some [.setctl .constantFrequency]
  | "SETCTL", ["ME"] => some [.setctl .maxEfficiency]
  | "SETBIND", [id, action, "ANN"] => (inputId? id).bind fun i => (action? action).map ([.setbind i · true])
  | "SETBIND", [id, action, "NOANN"] => (inputId? id).bind fun i => (action? action).map ([.setbind i · false])
  | "TURNON", [] => some [.turnon]
  | "TURNOFF", [] => some [.turnoff]
  | "SETESTOP", [v] => (field? 1 v).map (fun b => [.setestop (flagOfBit b)])
  | "SETPOS", [step] => (field? 16 step).map ([.setpos ·])
  | "READREG", [idx] => ((registerName? idx).or (field? 4 idx)).map ([.readreg ·])
  | "TICK", [] => some [.tick]
  | "PWMEDGE", ["FALL", ts] => (field? 16 ts).map ([.pwmedge false ·])
  | "PWMEDGE", ["RISE", ts] => (field? 16 ts).map ([.pwmedge true ·])
  | "ADCDONE", [v] => (field? 16 v).map ([.adcdone ·])
  | "INEDGE", [id, "ASSERT"] => (inputId? id).map ([.inedge · true])
  | "INEDGE", [id, "RELEASE"] => (inputId? id).map ([.inedge · false])
  | "ESTOP", [] => some [.setestop true]
  | "CLRESTOP", [] => some [.setestop false]
  | "PWMCYCLE", [tf, tr1, tr2] =>
    (field? 16 tf).bind fun f => (field? 16 tr1).bind fun r1 => (field? 16 tr2).map fun r2 =>
      [.pwmedge false f, .pwmedge true r1, .pwmedge true r2]
  | "READ", [name] => (registerName? name).map ([.readreg ·])
  | _, _ => none

/-- The operation words of one line: none for a blank line, `none` for a refused one (R98). -/
def assembleLine (line : String) : Option (List OpWord) :=
  match lineParts line with
  | none => some []
  | some (mnemonic, operands) => (operationsOf mnemonic operands).map (·.map encode)

/-- The operation words of a program text, one operation per line (R98); `none` when any line is refused. -/
def assemble : List String → Option (List OpWord)
  | [] => some []
  | line :: lines =>
    match assembleLine line, assemble lines with
    | some here, some rest => some (here ++ rest)
    | _, _ => none

end Sys2Proof.Machine
end

