-- ==== Sys2Proof/Safety.lean ====
section
/-! DEFINITION. What counts as a safe state and a safe run, in the terms the statements use: the invariants of
10_state.md section 6, the intended submitters of 00_scope.md R8, sequences of operations, and the equality of two
states but for what no agent can see. -/

namespace Sys2Proof.Machine

/-! ### Answers -/

/-- The state with one more response given, to the agent whose operation is being performed (60_exceptions.md R220). -/
def answered (code : ResponseCode) (data : Half) (s : State) : State :=
  { s with responses := s.responses ++ [⟨s.submitter, code, data⟩] }

/-- The state while an agent's word is being performed. -/
def submittedBy (agent : Agent) (s : State) : State := { s with submitter := agent }

/-- The outcome of a RESERVED word: ERR_RESERVED, and nothing else (30_encoding.md R95, 60_exceptions.md R221). -/
def reservedOutcome (agent : Agent) (s : State) : Result := .next (answered .errReserved 0 (submittedBy agent s))

/-- An operation goes through with these events and ends in this operating state (43_state_machine.md R163). -/
def Leads (i : Instr) (s : State) (target : OpState) (events : List OutputEvent) : Prop :=
  ∃ t, exec i s = .next t ∧ opState t = target ∧ t.log = s.log ++ events

/-! ### Numbers of the enumerations (92_eei_decisions.md D8), as the readback registers show them -/

/-- 0 or 1. -/
def numberOfFlag (b : Bool) : Nat := if b then 1 else 0

/-- 0 Unused, 1 MomentaryControl, 2 ToggleControl, 3 EmergencyStop. -/
def numberOfAction : InputAction → Nat
  | .unused => 0
  | .momentaryControl => 1
  | .toggleControl => 2
  | .emergencyStop => 3

/-! ### Invariants (10_state.md section 6) -/

/-- What holds in every state a legal instance reaches from reset. -/
structure State.Inv (s : State) : Prop where
  /-- the instance is legal (00_scope.md R10) -/
  legal : s.params.Legal
  /-- MIN_FREQ ≤ frequencyHz ≤ MAX_FREQ (10_state.md R32) -/
  frequency : s.params.minFreq ≤ s.cfg.frequencyHz.toNat ∧ s.cfg.frequencyHz.toNat ≤ s.params.maxFreq
  /-- powerDeciWatts ≤ MAX_POWER (10_state.md R33) -/
  power : s.cfg.powerDeciWatts.toNat ≤ s.params.maxPower
  /-- a Timed configuration has its ticks within the bounds (43_state_machine.md R172) -/
  runTicks : s.cfg.runMode = .timed →
    s.params.runTicksMin ≤ s.cfg.runTimerTicks.toNat ∧ s.cfg.runTimerTicks.toNat ≤ s.params.runTicksMax
  /-- actuatorPosition ≤ MAX_STEP (10_state.md R49) -/
  position : s.st.actuatorPosition.toNat ≤ s.params.maxStep
  /-- EStopped implies output off (10_state.md R50) -/
  estop : s.st.isEmergencyStopped = true → s.st.isOutputEnabled = false
  /-- output off implies countdown 0 (10_state.md R51) -/
  countdown : s.st.isOutputEnabled = false → s.st.runCountdownTicks = 0
  /-- duty at most 1000 (10_state.md R52) -/
  duty : s.st.measuredDutyCycleDeciPercent.toNat ≤ 1000
  /-- on-time sum at most period sum, which R52 rests on -/
  onTime : s.pwm.onSum.toNat ≤ s.pwm.periodSum.toNat
  /-- the decimation counters stay below their factors (10_state.md R53) -/
  pwmSkip : s.pwm.skip.toNat < s.params.pwmDecim
  /-- the decimation counters stay below their factors (10_state.md R53) -/
  adcSkip : s.adc.skip.toNat < s.params.adcDecim
  /-- a window whose count has not saturated holds at most 65535 per sample, which 41_tick.md R132 rests on -/
  sampleSum : s.adc.count.toNat < 65535 → s.adc.sum.toNat ≤ s.adc.count.toNat * 65535
  /-- the latched timestamps are TS_WIDTH bits (10_state.md R44) -/
  tFall : s.pwm.tFall.toNat < 2 ^ s.params.tsWidth
  /-- the latched timestamps are TS_WIDTH bits (10_state.md R44) -/
  tRise1 : s.pwm.tRise1.toNat < 2 ^ s.params.tsWidth

/-! ### The reducer as a signed 64-bit datapath computes it (41_tick.md R132) -/

/-- A parameter or a count as a 64-bit operand. -/
def word64 (n : Nat) : BitVec 64 := BitVec.ofNat 64 n

/-- Saturating narrowing of a signed 64-bit value to 16 bits. -/
def narrow64 (v : BitVec 64) : Half := if v.slt 0 then 0 else if (0xFFFF : BitVec 64).slt v then 0xFFFF else v.setWidth 16

/-- The window holds no PWM signal (41_tick.md R131). -/
abbrev noPwmSignal (s : State) : Prop := s.pwm.count = 0 ∨ s.pwm.periodSum = 0

/-- `f` with wrapping 64-bit product and truncating 64-bit division. -/
def frequency64 (s : State) : BitVec 64 :=
  if noPwmSignal s then 0
  else (word64 s.params.cpuClockHz * s.pwm.count.setWidth 64).sdiv (s.pwm.periodSum.setWidth 64)

/-- `d` with wrapping 64-bit product and truncating 64-bit division. -/
def duty64 (s : State) : BitVec 64 :=
  if noPwmSignal s then 0 else (s.pwm.onSum.setWidth 64 * word64 1000).sdiv (s.pwm.periodSum.setWidth 64)

/-- `avg` of a window that holds a conversion. -/
def average64 (s : State) : BitVec 64 := (s.adc.sum.setWidth 64).sdiv (s.adc.count.setWidth 64)

/-- `volt` with wrapping 64-bit product and truncating 64-bit division. -/
def volt64 (s : State) : BitVec 64 :=
  (average64 s * word64 s.params.fullScaleVoltage).sdiv (word64 s.params.adcFullScale)

/-- `c`, the one signed quantity, with wrapping 64-bit subtraction. -/
def current64 (s : State) : BitVec 64 :=
  if s.adc.count = 0 then 0
  else if s.params.currentInvert then word64 s.params.midScaleVoltage - volt64 s
  else volt64 s - word64 s.params.midScaleVoltage

/-- `p` from the stored current and duty. -/
def power64 (p : Params) (current duty : Half) : BitVec 64 :=
  (current.setWidth 64 * word64 p.ratedBusVoltage * duty.setWidth 64).sdiv (word64 1000)

/-! ### Sequences of operations -/

/-- The operations of a list performed one after another (20_memory.md R68). -/
def execAll : List Instr → State → Result
  | [], s => .next s
  | i :: is, s =>
    match exec i s with
    | .next t => execAll is t
    | .fault r => .fault r
    | .refused r => .refused r

/-- The stimuli of a list performed one after another, in the order they arrived (20_memory.md R68). -/
def performAll : List Stimulus → State → Result
  | [], s => .next s
  | x :: xs, s =>
    match perform x s with
    | .next t => performAll xs t
    | .fault r => .fault r
    | .refused r => .refused r

/-! ### Agents -/

/-- The operations each agent is there to submit (00_scope.md R8). The PRC does not check it (92_eei_decisions.md D5):
it describes an environment, and no operation reads it. -/
def Agent.submits : Agent → Instr → Bool
  | .host, .setfreq _ => true
  | .host, .setpwr _ => true
  | .host, .setrun _ _ => true
  | .host, .setctl _ => true
  | .host, .setbind _ _ _ => true
  | .host, .turnon => true
  | .host, .turnoff => true
  | .host, .setestop _ => true
  | .host, .setpos _ => true
  | .host, .readreg _ => true
  | .scheduler, .tick => true
  | .captureUnit, .pwmedge _ _ => true
  | .adc, .adcdone _ => true
  | .debouncer, .inedge _ _ => true
  | _, _ => false

/-! ### What no agent can see -/

/-- Two states equal but for the accumulators and the capture sequencer, the hidden state of 10_state.md R48. -/
def SameVisible (s t : State) : Prop := { s with pwm := t.pwm, adc := t.adc } = t

end Sys2Proof.Machine
end

