-- ==== Sys2Proof/Certificates/Slice0/Obligations.lean ====
section
/-! DEFINITION. The statements for the provers. Every statement holds for every legal parameter set: the parameters are
a field of the state (assumption log 1), so no statement rests on P0's values. An operation's response is carried in the
model's own fields `submitter` and `responses` (assumption log 3). -/

open Sys2Proof Sys2Proof.Machine

/-! ### Encoding (30_encoding.md) -/

/-- Decoding the word of a well-formed operation gives the operation back, with every operand at every value its field
admits (30_encoding.md R93, R95; R97 for SETRUN Continuous, whose ticks field is free). -/
def Obligations.DecodeOfEncode : Prop :=
  ∀ (p : Params) (i : Instr), i.WellFormed p → decode p (encode i) = .operation i

/-- Every word that decodes to an operation is that operation's own word, and the operation is well formed: each
operation has exactly one word and no bit of a word is dropped (30_encoding.md R90, R95). -/
def Obligations.EncodeOfDecode : Prop :=
  ∀ (p : Params) (w : OpWord) (i : Instr), decode p w = .operation i → encode i = w ∧ i.WellFormed p

/-- No word selects two rows of the opcode map, in any instance (30_encoding.md R95: "No two rows overlap"). -/
def Obligations.OpcodeRowsDisjoint : Prop :=
  ∀ p : Params, (opcodeMap p).Pairwise (fun a b => ∀ w : OpWord, ¬ (a.Selects w ∧ b.Selects w))

/-- The reserved words are exactly those of 30_encoding.md R96: an unlisted OP, a must-be-zero bit set in a listed OP
(R93's "A field use" and "IMM use"), or an input id 0 or 3; and submitting one is answered ERR_RESERVED and has no other
effect. -/
def Obligations.ReservedWords : Prop :=
  (∀ (p : Params) (w : OpWord), (∃ cause, decode p w = .reserved cause) ↔
    (let op : Nat := (w.extractLsb' 24 8).toNat
     let a : Nat := (w.extractLsb' 16 8).toNat
     let imm : Nat := (w.extractLsb' 0 16).toNat
     op ∉ [0x01, 0x02, 0x03, 0x04, 0x05, 0x06, 0x07, 0x08, 0x09, 0x0A, 0x10, 0x20, 0x30, 0x40]
     ∨ (op ∈ [0x01, 0x02, 0x09] ∧ a ≠ 0)
     ∨ (op = 0x03 ∧ 2 ≤ a)
     ∨ (op ∈ [0x04, 0x08] ∧ (2 ≤ a ∨ imm ≠ 0))
     ∨ (op ∈ [0x06, 0x07, 0x10] ∧ (a ≠ 0 ∨ imm ≠ 0))
     ∨ (op = 0x0A ∧ (16 ≤ a ∨ imm ≠ 0))
     ∨ (op = 0x20 ∧ (2 ≤ a ∨ 2 ^ p.tsWidth ≤ imm))
     ∨ (op = 0x30 ∧ (a ≠ 0 ∨ 2 ^ p.adcBits ≤ imm))
     ∨ (op = 0x05 ∧ (64 ≤ a ∨ a / 8 % 2 ≠ 0 ∨ imm ≠ 0 ∨ a / 16 % 4 = 0 ∨ a / 16 % 4 = 3))
     ∨ (op = 0x40 ∧ (64 ≤ a ∨ a / 2 % 8 ≠ 0 ∨ imm ≠ 0 ∨ a / 16 % 4 = 0 ∨ a / 16 % 4 = 3))))
  ∧ (∀ (agent : Agent) (w : OpWord) (s : State), (∃ cause, decode s.params w = .reserved cause) →
    performWord agent w s = reservedOutcome agent s)

/-- Words written out in 95_test_vectors.md decode to the operations it names, one word of each family, and two that it
answers ERR_RESERVED decode to RESERVED. The class names that the last two clauses give with RESERVED are the model's
choice (assumption log 15): 30_encoding.md R95 gives RESERVED only. -/
def Obligations.WordsOfTheVectorsDecode : Prop :=
  decode .p0 0x01006D60 = .operation (.setfreq 28000)
    ∧ decode .p0 0x03010003 = .operation (.setrun .timed 3)
    ∧ decode .p0 0x05170000 = .operation (.setbind .input1 .emergencyStop true)
    ∧ decode .p0 0x08010000 = .operation (.setestop true)
    ∧ decode .p0 0x0900012C = .operation (.setpos 300)
    ∧ decode .p0 0x0A0B0000 = .operation (.readreg 0xB)
    ∧ decode .p0 0x10000000 = .operation .tick
    ∧ decode .p0 0x2001034A = .operation (.pwmedge true 842)
    ∧ decode .p0 0x30000264 = .operation (.adcdone 612)
    ∧ decode .p0 0x40210000 = .operation (.inedge .input2 true)
    ∧ decode .p0 0x30000400 = .reserved .mustBeZeroBit
    ∧ decode .p0 0x40310000 = .reserved .inputId

/-- A transport's four bytes, byte 0 the low one and byte 3 the opcode, carry exactly the word (20_memory.md R62). -/
def Obligations.TransportIsLittleEndian : Prop :=
  ∀ (p : Params) (w : OpWord), decodeBytes p (bytesOfWord w) = .ok (decode p w)
    ∧ (bytesOfWord w)[0]? = some (w.extractLsb' 0 8) ∧ (bytesOfWord w)[3]? = some (w.extractLsb' 24 8)

/-! ### The configuration setters (43_state_machine.md) -/

/-- SETFREQ: the accepted value, which the generator's frequency level then shows, the refused value, and the word with a
must-be-zero bit set (43_state_machine.md R170). -/
def Obligations.SetfreqRule : Prop :=
  (∀ (hz : Half) (s : State), s.params.minFreq ≤ hz.toNat → hz.toNat ≤ s.params.maxFreq →
    exec (.setfreq hz) s = .next (answered .ok 0
      { s with cfg := { s.cfg with frequencyHz := hz }, log := s.log ++ [.genFreqWrite hz] }))
  ∧ (∀ (hz : Half) (s : State), s.params.minFreq ≤ hz.toNat → hz.toNat ≤ s.params.maxFreq →
    ∃ t, exec (.setfreq hz) s = .next t ∧ genFreq t = hz)
  ∧ (∀ (hz : Half) (s : State), hz.toNat < s.params.minFreq ∨ s.params.maxFreq < hz.toNat →
    exec (.setfreq hz) s = .next (answered .errRange 0 s))
  ∧ (∀ (a : Agent) (w : OpWord) (s : State), w.extractLsb' 24 8 = 0x01 → performWord a w s =
    if w.extractLsb' 16 8 ≠ 0 then reservedOutcome a s
    else exec (.setfreq (w.extractLsb' 0 16)) (submittedBy a s))

/-- SETPWR: the accepted value, the refused value, and the word with a must-be-zero bit set
(43_state_machine.md R171). -/
def Obligations.SetpwrRule : Prop :=
  (∀ (dw : Half) (s : State), dw.toNat ≤ s.params.maxPower →
    exec (.setpwr dw) s = .next (answered .ok 0 { s with cfg := { s.cfg with powerDeciWatts := dw } }))
  ∧ (∀ (dw : Half) (s : State), s.params.maxPower < dw.toNat →
    exec (.setpwr dw) s = .next (answered .errRange 0 s))
  ∧ (∀ (a : Agent) (w : OpWord) (s : State), w.extractLsb' 24 8 = 0x02 → performWord a w s =
    if w.extractLsb' 16 8 ≠ 0 then reservedOutcome a s
    else exec (.setpwr (w.extractLsb' 0 16)) (submittedBy a s))

/-- SETRUN: Timed within and outside the bounds, Continuous with any ticks, and the words (43_state_machine.md R172). -/
def Obligations.SetrunRule : Prop :=
  (∀ (ticks : Half) (s : State), s.params.runTicksMin ≤ ticks.toNat → ticks.toNat ≤ s.params.runTicksMax →
    exec (.setrun .timed ticks) s = .next (answered .ok 0
      { s with cfg := { s.cfg with runMode := .timed, runTimerTicks := ticks } }))
  ∧ (∀ (ticks : Half) (s : State), ticks.toNat < s.params.runTicksMin ∨ s.params.runTicksMax < ticks.toNat →
    exec (.setrun .timed ticks) s = .next (answered .errRange 0 s))
  ∧ (∀ (ticks : Half) (s : State),
    exec (.setrun .continuous ticks) s = .next (answered .ok 0
      { s with cfg := { s.cfg with runMode := .continuous } }))
  ∧ (∀ (a : Agent) (w : OpWord) (s : State), w.extractLsb' 24 8 = 0x03 → performWord a w s =
    if w.extractLsb' 17 7 ≠ 0 then reservedOutcome a s
    else exec (.setrun (if w.getLsbD 16 then .timed else .continuous) (w.extractLsb' 0 16)) (submittedBy a s))

/-- SETCTL: both modes are accepted (43_state_machine.md R173). -/
def Obligations.SetctlRule : Prop :=
  (∀ (mode : ControlMode) (s : State),
    exec (.setctl mode) s = .next (answered .ok 0 { s with cfg := { s.cfg with controlMode := mode } }))
  ∧ (∀ (a : Agent) (w : OpWord) (s : State), w.extractLsb' 24 8 = 0x04 → performWord a w s =
    if w.extractLsb' 17 7 ≠ 0 ∨ w.extractLsb' 0 16 ≠ 0 then reservedOutcome a s
    else exec (.setctl (if w.getLsbD 16 then .maxEfficiency else .constantFrequency)) (submittedBy a s))

/-- Setting the same frequency twice leaves what setting it once leaves, but for one more write to the generator and one
more response (43_state_machine.md R170, §8 property 5). -/
def Obligations.SetfreqTwice : Prop :=
  ∀ (hz : Half) (s : State), s.params.minFreq ≤ hz.toNat → hz.toNat ≤ s.params.maxFreq →
    ∃ t u, execAll [.setfreq hz] s = .next t ∧ execAll [.setfreq hz, .setfreq hz] s = .next u
      ∧ u = answered .ok 0 { t with log := t.log ++ [.genFreqWrite hz] }

/-! ### The input dispatcher (44_inputs.md) -/

/-- SETBIND: the binding of the named input, and nothing else; ids 0 and 3 and must-be-zero bits are refused
(44_inputs.md R200). -/
def Obligations.SetbindRule : Prop :=
  (∀ (action : InputAction) (announce : Bool) (s : State),
    exec (.setbind .input1 action announce) s
      = .next (answered .ok 0 { s with cfg := { s.cfg with input1 := ⟨action, announce⟩ } })
    ∧ exec (.setbind .input2 action announce) s
      = .next (answered .ok 0 { s with cfg := { s.cfg with input2 := ⟨action, announce⟩ } }))
  ∧ (∀ (a : Agent) (w : OpWord) (s : State) (action : InputAction),
    w.extractLsb' 24 8 = 0x05 → (w.extractLsb' 16 2).toNat = numberOfAction action → performWord a w s =
    if w.extractLsb' 22 2 ≠ 0 ∨ w.getLsbD 19 = true ∨ w.extractLsb' 0 16 ≠ 0 then reservedOutcome a s
    else if w.extractLsb' 20 2 = 1 then exec (.setbind .input1 action (w.getLsbD 18)) (submittedBy a s)
    else if w.extractLsb' 20 2 = 2 then exec (.setbind .input2 action (w.getLsbD 18)) (submittedBy a s)
    else reservedOutcome a s)

/-- INEDGE: for each action of the input's binding, what the edge does, then the announcement; the response is OK
(44_inputs.md R201). -/
def Obligations.InedgeRule : Prop :=
  (∀ (id : InputId) (asserted : Bool) (s : State) (b : InputBinding),
    (id = .input1 → b = s.cfg.input1) → (id = .input2 → b = s.cfg.input2) →
    let tail : List OutputEvent := if b.announce then [.announce id asserted] else []
    let unchanged : State := { s with log := s.log ++ tail }
    let off : State :=
      { s with st := { s.st with isOutputEnabled := false, runCountdownTicks := 0 }, log := s.log ++ .genOff :: tail }
    let on : State :=
      if s.st.isEmergencyStopped = true ∨ s.st.isOutputEnabled = true then unchanged
      else { s with
        st := { s.st with
          isOutputEnabled := true
          runCountdownTicks := if s.cfg.runMode = .timed then s.cfg.runTimerTicks else s.st.runCountdownTicks }
        log := s.log ++ .genOn s.params.waveformKind s.cfg.frequencyHz :: tail }
    let stopped : State :=
      { s with
        st := { s.st with isEmergencyStopped := true, isOutputEnabled := false, runCountdownTicks := 0 }
        log := s.log ++ .genOff :: tail }
    (b.action = .unused → exec (.inedge id asserted) s = .next (answered .ok 0 unchanged))
    ∧ (b.action = .momentaryControl →
      exec (.inedge id asserted) s = .next (answered .ok 0 (if asserted then on else off)))
    ∧ (b.action = .toggleControl → exec (.inedge id asserted) s = .next (answered .ok 0
      (if asserted then (if s.st.isOutputEnabled then off else on) else unchanged)))
    ∧ (b.action = .emergencyStop →
      exec (.inedge id asserted) s = .next (answered .ok 0 (if asserted then stopped else unchanged))))
  ∧ (∀ (a : Agent) (w : OpWord) (s : State), w.extractLsb' 24 8 = 0x40 → performWord a w s =
    if w.extractLsb' 22 2 ≠ 0 ∨ w.extractLsb' 17 3 ≠ 0 ∨ w.extractLsb' 0 16 ≠ 0 then reservedOutcome a s
    else if w.extractLsb' 20 2 = 1 then exec (.inedge .input1 (w.getLsbD 16)) (submittedBy a s)
    else if w.extractLsb' 20 2 = 2 then exec (.inedge .input2 (w.getLsbD 16)) (submittedBy a s)
    else reservedOutcome a s)

/-! ### The state machine's commands (43_state_machine.md) -/

/-- TURNON: from Idle, while Running, while EStopped, and the words (43_state_machine.md R165). -/
def Obligations.TurnonRule : Prop :=
  (∀ s : State, s.st.isEmergencyStopped = false → s.st.isOutputEnabled = false →
    exec .turnon s = .next (answered .ok 0
      { s with
        st := { s.st with
          isOutputEnabled := true
          runCountdownTicks := if s.cfg.runMode = .timed then s.cfg.runTimerTicks else s.st.runCountdownTicks }
        log := s.log ++ [.genOn s.params.waveformKind s.cfg.frequencyHz] }))
  ∧ (∀ s : State, s.st.isEmergencyStopped = false → s.st.isOutputEnabled = true →
    exec .turnon s = .next (answered .ok 0 s))
  ∧ (∀ s : State, s.st.isEmergencyStopped = true → exec .turnon s = .next (answered .errEstop 0 s))
  ∧ (∀ (a : Agent) (w : OpWord) (s : State), w.extractLsb' 24 8 = 0x06 → performWord a w s =
    if w ≠ 0x06000000 then reservedOutcome a s else exec .turnon (submittedBy a s))

/-- TURNOFF: the same in every state (43_state_machine.md R166). -/
def Obligations.TurnoffRule : Prop :=
  (∀ s : State, exec .turnoff s = .next (answered .ok 0
    { s with st := { s.st with isOutputEnabled := false, runCountdownTicks := 0 }, log := s.log ++ [.genOff] }))
  ∧ (∀ (a : Agent) (w : OpWord) (s : State), w.extractLsb' 24 8 = 0x07 → performWord a w s =
    if w ≠ 0x07000000 then reservedOutcome a s else exec .turnoff (submittedBy a s))

/-- SETESTOP: entering and leaving EStopped (43_state_machine.md R167). -/
def Obligations.SetestopRule : Prop :=
  (∀ s : State, exec (.setestop true) s = .next (answered .ok 0
    { s with
      st := { s.st with isEmergencyStopped := true, isOutputEnabled := false, runCountdownTicks := 0 }
      log := s.log ++ [.genOff] }))
  ∧ (∀ s : State, exec (.setestop false) s
    = .next (answered .ok 0 { s with st := { s.st with isEmergencyStopped := false } }))
  ∧ (∀ (a : Agent) (w : OpWord) (s : State), w.extractLsb' 24 8 = 0x08 → performWord a w s =
    if w.extractLsb' 17 7 ≠ 0 ∨ w.extractLsb' 0 16 ≠ 0 then reservedOutcome a s
    else exec (.setestop (w.getLsbD 16)) (submittedBy a s))

/-- The transition table of 43_state_machine.md R163, cell by cell. The premise is the invariant of 10_state.md R50,
without which the table's EStopped row is not meant. -/
def Obligations.TransitionTable : Prop :=
  ∀ s : State, (s.st.isEmergencyStopped = true → s.st.isOutputEnabled = false) →
    (opState s = .eStopped →
      Leads .turnon s .eStopped [] ∧ Leads .turnoff s .eStopped [.genOff]
      ∧ Leads (.setestop true) s .eStopped [.genOff] ∧ Leads (.setestop false) s .idle []
      ∧ Leads .tick s .eStopped [])
    ∧ (opState s = .idle →
      Leads .turnon s (.running s.cfg.runMode) [.genOn s.params.waveformKind s.cfg.frequencyHz]
      ∧ Leads .turnoff s .idle [.genOff]
      ∧ Leads (.setestop true) s .eStopped [.genOff] ∧ Leads (.setestop false) s .idle []
      ∧ Leads .tick s .idle [])
    ∧ (∀ m, opState s = .running m →
      Leads .turnon s (.running m) [] ∧ Leads .turnoff s .idle [.genOff]
      ∧ Leads (.setestop true) s .eStopped [.genOff] ∧ Leads (.setestop false) s (.running m) [])
    ∧ (opState s = .running .continuous →
      ∃ moved, moved.length ≤ 1 ∧ Leads .tick s (.running .continuous) moved)
    ∧ (opState s = .running .timed → 1 < s.st.runCountdownTicks.toNat →
      ∃ moved, moved.length ≤ 1 ∧ Leads .tick s (.running .timed) moved)
    ∧ (opState s = .running .timed → s.st.runCountdownTicks.toNat ≤ 1 →
      ∃ moved, moved.length ≤ 1 ∧ Leads .tick s .idle (moved ++ [.genOff]))

/-- The output is enabled only by TURNON or by an assertion edge of a Momentary or Toggle input, and never while
EStopped (10_state.md R50; 43_state_machine.md R160; 44_inputs.md R201). -/
def Obligations.OutputEnabledOnlyByTurnOn : Prop :=
  ∀ (i : Instr) (s t : State), exec i s = .next t → s.st.isOutputEnabled = false → t.st.isOutputEnabled = true →
    s.st.isEmergencyStopped = false ∧ t.st.isEmergencyStopped = false ∧
    (i = .turnon ∨
      (i = .inedge .input1 true ∧ s.cfg.input1.action ∈ [.momentaryControl, .toggleControl]) ∨
      (i = .inedge .input2 true ∧ s.cfg.input2.action ∈ [.momentaryControl, .toggleControl]))

/-- EStop is entered by an operation only by SETESTOP 1 or by an assertion edge of an EmergencyStop input, and left only
by SETESTOP 0 (60_exceptions.md R224; 43_state_machine.md R162). -/
def Obligations.EstopEnteredAndLeft : Prop :=
  ∀ (i : Instr) (s t : State), exec i s = .next t →
    (s.st.isEmergencyStopped = false → t.st.isEmergencyStopped = true →
      i = .setestop true ∨ (i = .inedge .input1 true ∧ s.cfg.input1.action = .emergencyStop)
        ∨ (i = .inedge .input2 true ∧ s.cfg.input2.action = .emergencyStop))
    ∧ (s.st.isEmergencyStopped = true → t.st.isEmergencyStopped = false → i = .setestop false)

/-- EStop dominance (43_state_machine.md R163, §8 property 2): after the word SETESTOP 1 the output is off, and
whatever arrives after it from any agent, words and resets alike, leaves it off as long as no word SETESTOP 0 is among
it. -/
def Obligations.EstopDominates : Prop :=
  ∀ (s : State) (a : Agent) (xs : List Stimulus), (∀ b : Agent, Stimulus.operation b 0x08000000 ∉ xs) →
    ∃ t, performAll (.operation a 0x08010000 :: xs) s = .next t
      ∧ t.st.isEmergencyStopped = true ∧ t.st.isOutputEnabled = false

/-! ### The actuator and the readback space -/

/-- SETPOS: clamped and always written to the hardware, or disabled; the premise is MAX_STEP's range (42_actuator.md
R153; 00_scope.md R9). -/
def Obligations.SetposRule : Prop :=
  (∀ (step : Half) (s : State), s.params.hasDebugSetpos = true → s.params.maxStep ≤ 255 →
    ∃ pos : BitVec 8, pos.toNat = min step.toNat s.params.maxStep ∧
      exec (.setpos step) s = .next (answered .ok 0
        { s with st := { s.st with actuatorPosition := pos }, log := s.log ++ [.potWrite pos] }))
  ∧ (∀ (step : Half) (s : State), s.params.hasDebugSetpos = false →
    exec (.setpos step) s = .next (answered .errDisabled 0 s))
  ∧ (∀ (a : Agent) (w : OpWord) (s : State), w.extractLsb' 24 8 = 0x09 → performWord a w s =
    if w.extractLsb' 16 8 ≠ 0 then reservedOutcome a s
    else exec (.setpos (w.extractLsb' 0 16)) (submittedBy a s))

/-- READREG: the value of each of the sixteen locations, and no other effect (20_memory.md R61, R65; 45_readback.md
R210). -/
def Obligations.ReadregRule : Prop :=
  (∀ s : State,
    let gives (idx : BitVec 4) (v : Half) : Prop := exec (.readreg idx) s = .next (answered .ok v s)
    gives 0x0 s.cfg.frequencyHz ∧ gives 0x1 s.cfg.powerDeciWatts ∧ gives 0x2 s.cfg.runTimerTicks
    ∧ gives 0x3 (BitVec.ofNat 16 (numberOfFlag (s.cfg.runMode = .timed)
        + 2 * numberOfFlag (s.cfg.controlMode = .maxEfficiency)))
    ∧ gives 0x4 (BitVec.ofNat 16 (numberOfAction s.cfg.input1.action + 4 * numberOfFlag s.cfg.input1.announce
        + 16 * numberOfAction s.cfg.input2.action + 64 * numberOfFlag s.cfg.input2.announce))
    ∧ gives 0x5 s.st.measuredFrequencyHz ∧ gives 0x6 s.st.measuredDutyCycleDeciPercent
    ∧ gives 0x7 s.st.measuredCurrentDeciAmps ∧ gives 0x8 s.st.measuredPowerDeciWatts
    ∧ gives 0x9 (BitVec.ofNat 16 s.st.actuatorPosition.toNat) ∧ gives 0xA s.st.runCountdownTicks
    ∧ gives 0xB (BitVec.ofNat 16 (numberOfFlag s.st.isOutputEnabled + 2 * numberOfFlag s.st.isEmergencyStopped))
    ∧ gives 0xC 0 ∧ gives 0xD 0 ∧ gives 0xE 0 ∧ gives 0xF 0)
  ∧ (∀ (a : Agent) (w : OpWord) (s : State), w.extractLsb' 24 8 = 0x0A → performWord a w s =
    if w.extractLsb' 20 4 ≠ 0 ∨ w.extractLsb' 0 16 ≠ 0 then reservedOutcome a s
    else exec (.readreg (w.extractLsb' 16 4)) (submittedBy a s))

/-! ### The sample producers (40_aggregator.md) -/

/-- PWMEDGE, phase by phase: which edges are ignored, which are counted, what is latched, and the completed cycle with
its modular differences, its clamped on-time and its saturating sums (40_aggregator.md
R110). -/
def Obligations.PwmedgeRule : Prop :=
  (∀ (rising : Bool) (ts : Half) (s : State), ts.toNat < 2 ^ s.params.tsWidth →
    (s.pwm.phase = .waitFall → rising = true → exec (.pwmedge rising ts) s = .next (answered .ok 0 s))
    ∧ (s.pwm.phase = .waitFall → rising = false → s.pwm.skip.toNat + 1 = s.params.pwmDecim →
      exec (.pwmedge rising ts) s = .next (answered .ok 0
        { s with pwm := { s.pwm with skip := 0, tFall := ts, phase := .waitRise1 } }))
    ∧ (s.pwm.phase = .waitFall → rising = false → s.pwm.skip.toNat + 1 ≠ s.params.pwmDecim →
      exec (.pwmedge rising ts) s = .next (answered .ok 0 { s with pwm := { s.pwm with skip := s.pwm.skip + 1 } }))
    ∧ (s.pwm.phase ≠ .waitFall → rising = false → exec (.pwmedge rising ts) s = .next (answered .ok 0 s))
    ∧ (s.pwm.phase = .waitRise1 → rising = true → exec (.pwmedge rising ts) s = .next (answered .ok 0
        { s with pwm := { s.pwm with tRise1 := ts, phase := .waitRise2 } }))
    ∧ (s.pwm.phase = .waitRise2 → rising = true →
      ∃ (period low : Nat) (onSum periodSum : BitVec 32) (count : Half),
        (period : Int) = ((ts.toNat : Int) - s.pwm.tRise1.toNat) % 2 ^ s.params.tsWidth
        ∧ (low : Int) = ((s.pwm.tRise1.toNat : Int) - s.pwm.tFall.toNat) % 2 ^ s.params.tsWidth
        ∧ periodSum.toNat = min (2 ^ 32 - 1) (s.pwm.periodSum.toNat + period)
        ∧ onSum.toNat = min (2 ^ 32 - 1) (s.pwm.onSum.toNat + (period - min low period))
        ∧ count.toNat = min 65535 (s.pwm.count.toNat + 1)
        ∧ exec (.pwmedge rising ts) s = .next (answered .ok 0
          { s with pwm := { s.pwm with
              onSum := onSum, periodSum := periodSum, count := count, phase := .waitFall } })))
  ∧ (∀ (a : Agent) (w : OpWord) (s : State), w.extractLsb' 24 8 = 0x20 → performWord a w s =
    if w.extractLsb' 17 7 ≠ 0 ∨ 2 ^ s.params.tsWidth ≤ (w.extractLsb' 0 16).toNat then reservedOutcome a s
    else exec (.pwmedge (w.getLsbD 16) (w.extractLsb' 0 16)) (submittedBy a s))

/-- ADCDONE: every Nth conversion is accumulated with saturation, every conversion restarts the converter
(40_aggregator.md R112). -/
def Obligations.AdcdoneRule : Prop :=
  (∀ (value : Half) (s : State), value.toNat < 2 ^ s.params.adcBits →
    (s.adc.skip.toNat + 1 = s.params.adcDecim →
      ∃ (sum : BitVec 32) (count : Half), sum.toNat = min (2 ^ 32 - 1) (s.adc.sum.toNat + value.toNat)
        ∧ count.toNat = min 65535 (s.adc.count.toNat + 1)
        ∧ exec (.adcdone value) s = .next (answered .ok 0
          { s with adc := { sum := sum, count := count, skip := 0 }, log := s.log ++ [.adcRestart] }))
    ∧ (s.adc.skip.toNat + 1 ≠ s.params.adcDecim →
      exec (.adcdone value) s = .next (answered .ok 0
        { s with adc := { s.adc with skip := s.adc.skip + 1 }, log := s.log ++ [.adcRestart] })))
  ∧ (∀ (a : Agent) (w : OpWord) (s : State), w.extractLsb' 24 8 = 0x30 → performWord a w s =
    if w.extractLsb' 16 8 ≠ 0 ∨ 2 ^ s.params.adcBits ≤ (w.extractLsb' 0 16).toNat then reservedOutcome a s
    else exec (.adcdone (w.extractLsb' 0 16)) (submittedBy a s))

/-- Decimation over any number of conversions (40_aggregator.md R112, R113, R117): of n conversions exactly every
ADC_DECIM-th is counted, the counter carries the remainder over, each conversion restarts the converter, and without
decimation the sum is the saturated sum of the values. -/
def Obligations.AdcDecimationOverAWindow : Prop :=
  ∀ (values : List Half) (s : State), s.params.Legal → s.adc.skip.toNat < s.params.adcDecim →
    (∀ v ∈ values, v.toNat < 2 ^ s.params.adcBits) →
    ∃ t, execAll (values.map .adcdone) s = .next t
      ∧ t.adc.skip.toNat = (s.adc.skip.toNat + values.length) % s.params.adcDecim
      ∧ t.adc.count.toNat
        = min 65535 (s.adc.count.toNat + (s.adc.skip.toNat + values.length) / s.params.adcDecim)
      ∧ t.log = s.log ++ List.replicate values.length .adcRestart
      ∧ (s.params.adcDecim = 1 →
        t.adc.sum.toNat = min (2 ^ 32 - 1) (s.adc.sum.toNat + (values.map BitVec.toNat).sum))

/-- PWMCYCLE (30_encoding.md R99; 40_aggregator.md R110, R111): started in WAIT_FALL one short of the decimation factor,
its three edges count one cycle and return the sequencer to WAIT_FALL. -/
def Obligations.PwmCycleCountsOne : Prop :=
  ∀ (tf tr1 tr2 : Half) (s : State), s.pwm.phase = .waitFall → s.pwm.skip.toNat + 1 = s.params.pwmDecim →
    tf.toNat < 2 ^ s.params.tsWidth → tr1.toNat < 2 ^ s.params.tsWidth → tr2.toNat < 2 ^ s.params.tsWidth →
    ∃ t, execAll [.pwmedge false tf, .pwmedge true tr1, .pwmedge true tr2] s = .next t
      ∧ t.pwm.count.toNat = min 65535 (s.pwm.count.toNat + 1)
      ∧ (t.pwm.periodSum.toNat : Int)
        = min (2 ^ 32 - 1) (s.pwm.periodSum.toNat + ((tr2.toNat : Int) - tr1.toNat) % 2 ^ s.params.tsWidth)
      ∧ t.pwm.phase = .waitFall ∧ t.pwm.skip = 0 ∧ t.pwm.tFall = tf ∧ t.pwm.tRise1 = tr1
      ∧ t.adc = s.adc ∧ t.st = s.st ∧ t.cfg = s.cfg ∧ t.log = s.log

/-! ### TICK (41_tick.md) -/

/-- Stage 1 of TICK: the four measured values by the reducer's formulas, from the accumulators as they stood, which are
left drained, the capture sequencer and the ADC's decimation counter untouched (41_tick.md R131; 40_aggregator.md R114,
R115). -/
def Obligations.TickMeasures : Prop :=
  ∀ s : State, ∃ t, exec .tick s = .next t
    ∧ t.st.measuredFrequencyHz.toNat = min 65535
      (if s.pwm.count = 0 ∨ s.pwm.periodSum = 0 then 0
       else s.params.cpuClockHz * s.pwm.count.toNat / s.pwm.periodSum.toNat)
    ∧ t.st.measuredDutyCycleDeciPercent.toNat = min 65535
      (if s.pwm.count = 0 ∨ s.pwm.periodSum = 0 then 0 else s.pwm.onSum.toNat * 1000 / s.pwm.periodSum.toNat)
    ∧ (t.st.measuredCurrentDeciAmps.toNat : Int) = min 65535 (max 0
      (if s.adc.count = 0 then 0
       else
        let volt : Nat := s.adc.sum.toNat / s.adc.count.toNat * s.params.fullScaleVoltage / s.params.adcFullScale
        if s.params.currentInvert then (s.params.midScaleVoltage : Int) - volt
        else (volt : Int) - s.params.midScaleVoltage))
    ∧ t.st.measuredPowerDeciWatts.toNat = min 65535
      (t.st.measuredCurrentDeciAmps.toNat * s.params.ratedBusVoltage
        * t.st.measuredDutyCycleDeciPercent.toNat / 1000)
    ∧ t.pwm = { s.pwm with onSum := 0, periodSum := 0, count := 0 }
    ∧ t.adc = { s.adc with sum := 0, count := 0 }

/-- Stage 2 of TICK: one bang-bang step on this tick's own measurements, gated by the output enable and by
ConstantFrequency, stopped at the saturation conditions (41_tick.md R133, R134). The premises are MAX_STEP's range and
the invariant of 10_state.md R49. -/
def Obligations.TickRegulates : Prop :=
  ∀ s t : State, s.params.maxStep ≤ 255 → s.st.actuatorPosition.toNat ≤ s.params.maxStep →
    exec .tick s = .next t →
    let m := t.st.measuredPowerDeciWatts.toNat
    let r := s.cfg.powerDeciWatts.toNat
    let d := t.st.measuredDutyCycleDeciPercent.toNat
    let pos := s.st.actuatorPosition.toNat
    t.st.actuatorPosition.toNat =
      if s.st.isOutputEnabled = true ∧ s.cfg.controlMode = .constantFrequency then
        if m > r then (if d ≠ 0 ∧ pos ≠ 0 then pos - 1 else pos)
        else if m < r then (if d ≤ s.params.dutyMaxThreshold ∧ pos ≠ s.params.maxStep then pos + 1 else pos)
        else pos
      else pos

/-- Stage 3 of TICK: the countdown of an enabled Timed run does not go below 0, and reaching 0 turns the output off in
the same tick; otherwise countdown and enable stay (41_tick.md R136). -/
def Obligations.TickCountsDown : Prop :=
  ∀ s t : State, exec .tick s = .next t →
    (s.st.isOutputEnabled = true → s.cfg.runMode = .timed →
      t.st.runCountdownTicks.toNat = s.st.runCountdownTicks.toNat - 1
      ∧ (t.st.isOutputEnabled = true ↔ 1 < s.st.runCountdownTicks.toNat))
    ∧ (s.st.isOutputEnabled = false ∨ s.cfg.runMode = .continuous →
      t.st.runCountdownTicks = s.st.runCountdownTicks ∧ t.st.isOutputEnabled = s.st.isOutputEnabled)

/-- What TICK emits and what it leaves alone: POT_WRITE of the new position when the position moved, then GEN_OFF when
the run ended, and no other event; configuration, EStop, parameters and what is still to arrive are unchanged, and the
answer is OK. A word of TICK's opcode with any other bit set is refused (41_tick.md R130). -/
def Obligations.TickFrame : Prop :=
  (∀ s t : State, s.params.maxStep ≤ 255 → exec .tick s = .next t →
    t.log = s.log
      ++ (if t.st.actuatorPosition = s.st.actuatorPosition then [] else [.potWrite t.st.actuatorPosition])
      ++ (if s.st.isOutputEnabled = true ∧ t.st.isOutputEnabled = false then [.genOff] else [])
    ∧ t.cfg = s.cfg ∧ t.st.isEmergencyStopped = s.st.isEmergencyStopped ∧ t.params = s.params
    ∧ t.inbox = s.inbox ∧ t.submitter = s.submitter ∧ t.responses = s.responses ++ [⟨s.submitter, .ok, 0⟩])
  ∧ (∀ (a : Agent) (w : OpWord) (s : State), w.extractLsb' 24 8 = 0x10 → performWord a w s =
    if w ≠ 0x10000000 then reservedOutcome a s else exec .tick (submittedBy a s))

/-- A signed 64-bit datapath, wrapping and truncating, computes what TICK measures, and exactly, in every state that meets
the invariant: its four quotients and differences are the integers of the model's own formulas, narrowing them gives the
four values TICK stores (the power from the stored current and duty), and every intermediate is within the bound
41_tick.md R132 gives it, below 2^50. -/
def Obligations.ReducerFitsFiftyBits : Prop :=
  ∀ s : State, s.Inv → ∃ t, exec .tick s = .next t
    ∧ t.st.measuredFrequencyHz = narrow64 (frequency64 s)
    ∧ t.st.measuredDutyCycleDeciPercent = narrow64 (duty64 s)
    ∧ t.st.measuredCurrentDeciAmps = narrow64 (current64 s)
    ∧ t.st.measuredPowerDeciWatts
      = narrow64 (power64 s.params t.st.measuredCurrentDeciAmps t.st.measuredDutyCycleDeciPercent)
    ∧ (frequency64 s).toInt = frequencyOf s.params s.pwm.periodSum.toNat s.pwm.count.toNat
    ∧ (duty64 s).toInt = dutyOf s.pwm.onSum.toNat s.pwm.periodSum.toNat s.pwm.count.toNat
    ∧ (current64 s).toInt = currentOf s.params s.adc.sum.toNat s.adc.count.toNat
    ∧ (power64 s.params t.st.measuredCurrentDeciAmps t.st.measuredDutyCycleDeciPercent).toInt
      = powerOf s.params t.st.measuredCurrentDeciAmps t.st.measuredDutyCycleDeciPercent
    ∧ s.params.cpuClockHz * s.pwm.count.toNat < 2 ^ 32 * 2 ^ 16
    ∧ s.pwm.onSum.toNat * 1000 < 2 ^ 32 * 2 ^ 10
    ∧ s.adc.sum.toNat / s.adc.count.toNat < 2 ^ 17
    ∧ s.adc.sum.toNat / s.adc.count.toNat * s.params.fullScaleVoltage < 2 ^ 17 * 2 ^ 32
    ∧ (currentOf s.params s.adc.sum.toNat s.adc.count.toNat).natAbs < 2 ^ 50
    ∧ t.st.measuredCurrentDeciAmps.toNat * s.params.ratedBusVoltage * t.st.measuredDutyCycleDeciPercent.toNat
      < 2 ^ 16 * 2 ^ 16 * 2 ^ 10

/-- A timed run of N ticks (41_tick.md R136; 43_state_machine.md R160; §8 property 3): after TURNON from Idle with
runTimerTicks = N ≥ 1, k < N ticks leave the output enabled with N - k left, and N ticks end the run. -/
def Obligations.TimedRunLastsItsTicks : Prop :=
  ∀ s : State, s.st.isEmergencyStopped = false → s.st.isOutputEnabled = false → s.cfg.runMode = .timed →
    1 ≤ s.cfg.runTimerTicks.toNat →
    (∀ k, k < s.cfg.runTimerTicks.toNat → ∃ t, execAll (.turnon :: List.replicate k .tick) s = .next t
      ∧ t.st.isOutputEnabled = true ∧ t.st.runCountdownTicks.toNat = s.cfg.runTimerTicks.toNat - k)
    ∧ (∃ t, execAll (.turnon :: List.replicate s.cfg.runTimerTicks.toNat .tick) s = .next t
      ∧ t.st.isOutputEnabled = false ∧ t.st.runCountdownTicks = 0)

/-- The position after k ticks differs from its start by at most k and never leaves [0, MAX_STEP] (41_tick.md R135; §8
property 1). -/
def Obligations.PositionMovesOneStepPerTick : Prop :=
  ∀ (k : Nat) (s : State), s.params.maxStep ≤ 255 → s.st.actuatorPosition.toNat ≤ s.params.maxStep →
    ∃ t, execAll (List.replicate k .tick) s = .next t
      ∧ t.st.actuatorPosition.toNat ≤ s.params.maxStep
      ∧ t.st.actuatorPosition.toNat ≤ s.st.actuatorPosition.toNat + k
      ∧ s.st.actuatorPosition.toNat ≤ t.st.actuatorPosition.toNat + k

/-- Without any sample and with a positive setpoint, an enabled Continuous ConstantFrequency loop climbs one step each
tick until MAX_STEP (41_tick.md R135, the no-signal window). -/
def Obligations.NoSignalClimbsToMaxStep : Prop :=
  ∀ (k : Nat) (s : State), s.params.maxStep ≤ 255 → s.st.actuatorPosition.toNat ≤ s.params.maxStep →
    s.st.isOutputEnabled = true → s.cfg.runMode = .continuous → s.cfg.controlMode = .constantFrequency →
    0 < s.cfg.powerDeciWatts.toNat → s.pwm.count = 0 → s.adc.count = 0 →
    ∃ t, execAll (List.replicate k .tick) s = .next t
      ∧ t.st.actuatorPosition.toNat = min s.params.maxStep (s.st.actuatorPosition.toNat + k)
      ∧ t.st.isOutputEnabled = true

/-- What a tick measures depends only on the samples since the previous tick (20_memory.md R69, R71): two machines of one
instance whose sequencer and decimation counters agree, whatever else they hold, measure the same at the second tick of
"TICK, the same operations, TICK". -/
def Obligations.WindowsAreIndependent : Prop :=
  ∀ (is : List Instr) (s1 s2 : State), s1.params = s2.params → s1.pwm.phase = s2.pwm.phase →
    s1.pwm.skip = s2.pwm.skip → s1.pwm.tFall = s2.pwm.tFall → s1.pwm.tRise1 = s2.pwm.tRise1 →
    s1.adc.skip = s2.adc.skip →
    ∃ t1 t2, execAll (.tick :: (is ++ [.tick])) s1 = .next t1 ∧ execAll (.tick :: (is ++ [.tick])) s2 = .next t2
      ∧ t1.st.measuredFrequencyHz = t2.st.measuredFrequencyHz
      ∧ t1.st.measuredDutyCycleDeciPercent = t2.st.measuredDutyCycleDeciPercent
      ∧ t1.st.measuredCurrentDeciAmps = t2.st.measuredCurrentDeciAmps
      ∧ t1.st.measuredPowerDeciWatts = t2.st.measuredPowerDeciWatts

/-- The accumulators and the sequencer are hidden (10_state.md R48, R54): every operation but TICK answers and acts alike
on two states that differ only there. -/
def Obligations.AccumulatorsAreHidden : Prop :=
  ∀ (i : Instr) (s1 s2 : State), i ≠ .tick → SameVisible s1 s2 →
    ∃ t1 t2, exec i s1 = .next t1 ∧ exec i s2 = .next t2 ∧ SameVisible t1 t2

/-! ### Who writes what (10_state.md) -/

/-- Each field of the configuration is written by its own setter only, with the setter's value (10_state.md R31 to
R36). -/
def Obligations.ConfigurationWriters : Prop :=
  ∀ (i : Instr) (s t : State), exec i s = .next t →
    (t.cfg.frequencyHz ≠ s.cfg.frequencyHz → i = .setfreq t.cfg.frequencyHz)
    ∧ (t.cfg.powerDeciWatts ≠ s.cfg.powerDeciWatts → i = .setpwr t.cfg.powerDeciWatts)
    ∧ (t.cfg.runMode ≠ s.cfg.runMode → ∃ ticks, i = .setrun t.cfg.runMode ticks)
    ∧ (t.cfg.runTimerTicks ≠ s.cfg.runTimerTicks → i = .setrun .timed t.cfg.runTimerTicks)
    ∧ (t.cfg.controlMode ≠ s.cfg.controlMode → i = .setctl t.cfg.controlMode)
    ∧ (t.cfg.input1 ≠ s.cfg.input1 → i = .setbind .input1 t.cfg.input1.action t.cfg.input1.announce)
    ∧ (t.cfg.input2 ≠ s.cfg.input2 → i = .setbind .input2 t.cfg.input2.action t.cfg.input2.announce)

/-- The measured values are written by TICK only, the position by SETPOS and TICK only, and the countdown by the
operations that reach TurnOn, TurnOff or the countdown stage only (10_state.md R37 to R39). -/
def Obligations.StatusWriters : Prop :=
  ∀ (i : Instr) (s t : State), exec i s = .next t →
    (i ≠ .tick → t.st.measuredFrequencyHz = s.st.measuredFrequencyHz
      ∧ t.st.measuredDutyCycleDeciPercent = s.st.measuredDutyCycleDeciPercent
      ∧ t.st.measuredCurrentDeciAmps = s.st.measuredCurrentDeciAmps
      ∧ t.st.measuredPowerDeciWatts = s.st.measuredPowerDeciWatts)
    ∧ (t.st.actuatorPosition ≠ s.st.actuatorPosition → i = .tick ∨ ∃ step, i = .setpos step)
    ∧ (t.st.runCountdownTicks ≠ s.st.runCountdownTicks →
      i = .tick ∨ i = .turnon ∨ i = .turnoff ∨ i = .setestop true ∨ ∃ id asserted, i = .inedge id asserted)

/-- The accumulators are written by their producer and by TICK only, the capture sequencer and the decimation counters by
their producer only (10_state.md R43 to R45). -/
def Obligations.AccumulatorWriters : Prop :=
  ∀ (i : Instr) (s t : State), exec i s = .next t →
    (t.pwm ≠ s.pwm → i = .tick ∨ ∃ rising ts, i = .pwmedge rising ts)
    ∧ (t.adc ≠ s.adc → i = .tick ∨ ∃ value, i = .adcdone value)
    ∧ (i = .tick → t.pwm.phase = s.pwm.phase ∧ t.pwm.skip = s.pwm.skip ∧ t.pwm.tFall = s.pwm.tFall
      ∧ t.pwm.tRise1 = s.pwm.tRise1 ∧ t.adc.skip = s.adc.skip)

/-- The log is append-only, and each kind of event comes only from the operations 10_state.md R46 names for it. -/
def Obligations.LogIsAppendOnly : Prop :=
  ∀ (i : Instr) (s t : State), exec i s = .next t →
    ∃ events, t.log = s.log ++ events ∧ ∀ e ∈ events,
      (∀ pos, e = .potWrite pos → i = .tick ∨ ∃ step, i = .setpos step)
      ∧ (∀ hz, e = .genFreqWrite hz → i = .setfreq hz)
      ∧ (∀ kind hz, e = .genOn kind hz → kind = s.params.waveformKind ∧ hz = s.cfg.frequencyHz
        ∧ (i = .turnon ∨ ∃ id, i = .inedge id true))
      ∧ (e = .genOff → i = .turnoff ∨ i = .setestop true ∨ i = .tick ∨ ∃ id asserted, i = .inedge id asserted)
      ∧ (e = .adcRestart → ∃ value, i = .adcdone value)
      ∧ (∀ id asserted, e = .announce id asserted → i = .inedge id asserted)

/-! ### Responses (60_exceptions.md) -/

/-- Every submitted word is answered exactly once, to its submitter, with data 0 unless it is a READREG; and no answer is
ever read back: the answers given before change nothing else (60_exceptions.md R220). That answers are kept in a list
of the state is the model's choice (assumption log 3). -/
def Obligations.EveryWordIsAnsweredOnce : Prop :=
  ∀ (a : Agent) (w : OpWord) (s : State), ∃ t code data, performWord a w s = .next t
    ∧ t.responses = s.responses ++ [⟨a, code, data⟩]
    ∧ (data ≠ 0 → code = .ok ∧ ∃ idx, decode s.params w = .operation (.readreg idx))
    ∧ ∀ earlier, performWord a w { s with responses := earlier }
      = .next { t with responses := earlier ++ [⟨a, code, data⟩] }

/-- The response codes of 60_exceptions.md R221 and their causes: which code a word is answered with, and that every code
but OK leaves the state as it was, with nothing emitted. -/
def Obligations.ResponseCodesAndCauses : Prop :=
  ∀ (a : Agent) (w : OpWord) (s : State), ∃ t code data, performWord a w s = .next t
    ∧ t.responses = s.responses ++ [⟨a, code, data⟩]
    ∧ (code ≠ .ok → t = { s with submitter := a, responses := s.responses ++ [⟨a, code, 0⟩] })
    ∧ (code = .errReserved ↔ ∃ cause, decode s.params w = .reserved cause)
    ∧ (code = .errRange ↔
      (∃ hz, decode s.params w = .operation (.setfreq hz)
        ∧ (hz.toNat < s.params.minFreq ∨ s.params.maxFreq < hz.toNat))
      ∨ (∃ dw, decode s.params w = .operation (.setpwr dw) ∧ s.params.maxPower < dw.toNat)
      ∨ (∃ ticks, decode s.params w = .operation (.setrun .timed ticks)
        ∧ (ticks.toNat < s.params.runTicksMin ∨ s.params.runTicksMax < ticks.toNat)))
    ∧ (code = .errEstop ↔ decode s.params w = .operation .turnon ∧ s.st.isEmergencyStopped = true)
    ∧ (code = .errDisabled ↔
      (∃ step, decode s.params w = .operation (.setpos step)) ∧ s.params.hasDebugSetpos = false)

/-- The five codes are 0 to 4 and the codes 5 to 15 are never produced (60_exceptions.md R221). -/
def Obligations.ResponseCodeNumbers : Prop :=
  ResponseCode.ok.bits = 0 ∧ ResponseCode.errReserved.bits = 1 ∧ ResponseCode.errRange.bits = 2
    ∧ ResponseCode.errEstop.bits = 3 ∧ ResponseCode.errDisabled.bits = 4
    ∧ ∀ code : ResponseCode, code.bits.toNat ≤ 4

/-- Every agent may submit every word and the PRC does not check which one did: the outcome differs only in whom it
answers (60_exceptions.md R230). -/
def Obligations.SubmitterIsNotChecked : Prop :=
  ∀ (a b : Agent) (w : OpWord) (s : State), ∃ (t : State) (code : ResponseCode) (data : Half),
    performWord a w s = .next { t with submitter := a, responses := s.responses ++ [⟨a, code, data⟩] }
    ∧ performWord b w s = .next { t with submitter := b, responses := s.responses ++ [⟨b, code, data⟩] }

/-! ### The step, reset and the invariant -/

/-- A step performs the stimulus at the front of the inbox: a decoded, well-formed operation is `exec` of it, in the
state with the stimulus taken and its submitter noted. The inbox is the model's choice (assumption log 2). -/
def Obligations.StepRunsTheDecodedOperation : Prop :=
  ∀ (a : Agent) (w : OpWord) (i : Instr) (later : List Stimulus) (s : State), s.params.Legal →
    s.inbox = .operation a w :: later → decode s.params w = .operation i → i.WellFormed s.params →
    step s = exec i { s with inbox := later, submitter := a }

/-- With nothing submitted a step holds the state (60_exceptions.md R235); an instance outside the constraints of
00_scope.md R10 is refused. The model's choices: the inbox (assumption log 2) and the refusal (assumption log 13). -/
def Obligations.StepHoldsOrRefuses : Prop :=
  (∀ s : State, s.params.Legal → s.inbox = [] → step s = .next s)
  ∧ (∀ s : State, ¬ s.params.Legal → step s = .refused .illegalParameters)

/-- All stimuli are performed one at a time in the order the PRC receives them, whatever that order is (20_memory.md R68;
60_exceptions.md R228): as many steps as stimuli have arrived do what performing them one after another does. The inbox that holds them is the
model's choice (assumption log 2). -/
def Obligations.StimuliArePerformedInArrivalOrder : Prop :=
  ∀ (xs later : List Stimulus) (s : State), s.params.Legal →
    (Host.Core.run Sys2Proof.core xs.length ({ s with inbox := xs ++ later } : State) : Result)
      = performAll xs { s with inbox := later }

/-- Reset, field by field (70_reset_and_hazards.md R260, R261): every element of the spec's state, from any state; it
gives no response. That the instance, what is still to arrive and the answers given stay is the model's choice
(assumption log 4). -/
def Obligations.ResetSetsEveryElement : Prop :=
  ∀ s : State, perform .reset s = .next
    { cfg := s.params.defaultConfig
      st :=
        { measuredFrequencyHz := 0, measuredDutyCycleDeciPercent := 0, measuredCurrentDeciAmps := 0,
          measuredPowerDeciWatts := 0, actuatorPosition := 0, runCountdownTicks := 0,
          isEmergencyStopped := true, isOutputEnabled := false }
      pwm := { onSum := 0, periodSum := 0, count := 0, phase := .waitFall, skip := 0, tFall := 0, tRise1 := 0 }
      adc := { sum := 0, count := 0, skip := 0 }
      log := [.genOff, .potWrite 0, .adcRestart]
      params := s.params
      inbox := s.inbox
      submitter := s.submitter
      responses := s.responses }

/-- The reset state of every legal instance meets the invariant (10_state.md section 6), the machine's own among them,
whose parameters are the model's choice (assumption log 1). -/
def Obligations.ResetMeetsTheInvariant : Prop :=
  State.reset.Inv ∧ ∀ p : Params, p.Legal → (State.resetOf p).Inv

/-- Every step keeps the invariant (10_state.md R32, R33, R49, R50, R51, R52, R53), from every state that meets it. -/
def Obligations.StepKeepsTheInvariant : Prop :=
  ∀ s t : State, s.Inv → step s = .next t → t.Inv

/-- No step changes the instance's parameters (40_aggregator.md R117 says it of the decimation factors). That
they are a field of the state is the model's choice (assumption log 1). -/
def Obligations.StepKeepsTheParameters : Prop :=
  ∀ s t : State, step s = .next t → t.params = s.params

/-! ### Assembler (30_encoding.md) -/

/-- Lines of 95_test_vectors.md assemble to its words, and the operands R98 says do not fit are refused. How blanks are
read is the model's choice (assumption log 12). -/
def Obligations.AssemblerLines : Prop :=
  assembleLine "SETRUN TIMED, 3" = some [0x03010003]
    ∧ assembleLine "SETBIND 1, ESTOP, ANN" = some [0x05170000]
    ∧ assembleLine "PWMEDGE RISE, 842 ; second rising edge" = some [0x2001034A]
    ∧ assembleLine "READREG ST_FLAGS" = some [0x0A0B0000]
    ∧ assembleLine "INEDGE 2, ASSERT" = some [0x40210000]
    ∧ assembleLine "SETPOS 70000" = none
    ∧ assembleLine "INEDGE 3, ASSERT" = none

/-- The pseudo-instructions stand for their expansions, whatever their operands (30_encoding.md R99); a name is a register
name exactly when 10_state.md R54 gives it, with the index R54 gives, and READ and READREG of it are READREG of that
index. -/
def Obligations.PseudoInstructionsExpand : Prop :=
  operationsOf "ESTOP" [] = operationsOf "SETESTOP" ["1"]
    ∧ operationsOf "CLRESTOP" [] = operationsOf "SETESTOP" ["0"]
    ∧ (∀ tf tr1 tr2 : String, operationsOf "PWMCYCLE" [tf, tr1, tr2] =
      match operationsOf "PWMEDGE" ["FALL", tf], operationsOf "PWMEDGE" ["RISE", tr1],
        operationsOf "PWMEDGE" ["RISE", tr2] with
      | some f, some r1, some r2 => some (f ++ r1 ++ r2)
      | _, _, _ => none)
    ∧ (∀ (name : String) (idx : BitVec 4), registerName? name = some idx ↔
      (name, idx) ∈ ([("CFG_FREQ", 0x0), ("CFG_POWER", 0x1), ("CFG_RUNTICKS", 0x2), ("CFG_MODE", 0x3),
        ("CFG_INPUTS", 0x4), ("ST_FREQ", 0x5), ("ST_DUTY", 0x6), ("ST_CURRENT", 0x7), ("ST_POWER", 0x8), ("ST_POS", 0x9),
        ("ST_COUNTDOWN", 0xA), ("ST_FLAGS", 0xB)] : List (String × BitVec 4)))
    ∧ (∀ (name : String) (idx : BitVec 4), registerName? name = some idx →
      operationsOf "READ" [name] = some [.readreg idx] ∧ operationsOf "READREG" [name] = some [.readreg idx])
end

