-- ==== Sys2Proof/Laws/Arith.lean ====
section
/-! SUPPORT. What the arithmetic of 00_scope.md R12 computes, in plain integers: saturation, modular subtraction and the
decimation counter. Later proofs cite these and never unfold the operators. -/

namespace Sys2Proof.Machine

/-- Saturating conversion, as an exact clamp. -/
theorem satU_toInt (n : Nat) (v : Int) : ((satU n v).toNat : Int) = min (max v 0) (2 ^ n - 1) := by
  have hpos : (0 : Int) < 2 ^ n := by positivity
  have hlt : (clamp v 0 (2 ^ n - 1)).toNat < 2 ^ n := by
    have : clamp v 0 (2 ^ n - 1) ≤ 2 ^ n - 1 := min_le_right _ _
    zify
    omega
  rw [satU, BitVec.toNat_ofNat, Nat.mod_eq_of_lt hlt, Int.toNat_of_nonneg]
  · rfl
  · exact le_min (le_max_right _ _) (by omega)

/-- Saturating conversion of a value that is not negative. -/
theorem satU_toNat (n v : Nat) : (satU n (v : Int)).toNat = min v (2 ^ n - 1) := by
  have h := satU_toInt n v
  have hpos : 1 ≤ 2 ^ n := Nat.one_le_two_pow
  zify [hpos]
  omega

/-- Saturating addition never wraps: it stops at the largest value. -/
theorem addsat_toNat {n : Nat} (a : BitVec n) (b : Nat) : (addsat a b).toNat = min (a.toNat + b) (2 ^ n - 1) := by
  rw [addsat, ← Nat.cast_add, satU_toNat]

/-- Saturating addition is monotone (10_state.md R52). -/
theorem addsat_mono {n : Nat} {a a' : BitVec n} {b b' : Nat} (ha : a.toNat ≤ a'.toNat) (hb : b ≤ b') :
    (addsat a b).toNat ≤ (addsat a' b').toNat := by
  rw [addsat_toNat, addsat_toNat]
  exact min_le_min_right _ (Nat.add_le_add ha hb)

/-- Modular subtraction, over the integers. -/
theorem subMod_toInt (n : Nat) (a b : Half) : (subMod n a b : Int) = ((a.toNat : Int) - b.toNat) % 2 ^ n :=
  Int.toNat_of_nonneg (Int.emod_nonneg _ (by positivity))

/-- A modular difference fits the timestamp's width. -/
theorem subMod_lt (n : Nat) (a b : Half) : subMod n a b < 2 ^ n := by
  have h : ((a.toNat : Int) - b.toNat) % 2 ^ n < 2 ^ n := Int.emod_lt_of_pos _ (by positivity)
  rw [← subMod_toInt] at h
  exact_mod_cast h

/-- The decimation counter processes the Nth event and starts again, or counts one more. -/
theorem decimate_cases (n : Nat) (skip : Half) :
    (skip.toNat + 1 = n ∧ decimate n skip = (true, 0)) ∨
    (skip.toNat + 1 ≠ n ∧ decimate n skip = (false, skip + 1)) := by
  by_cases h : skip.toNat + 1 = n
  · exact .inl ⟨h, if_pos h⟩
  · refine .inr ⟨h, ?_⟩
    rw [decimate, if_neg h]
    simp [BitVec.ofNat_add]

/-- A decimation counter below its factor stays below it, and counts without wrapping. -/
theorem decimate_lt {n : Nat} {skip : Half} (hn : n ≤ 65535) (h : skip.toNat < n) :
    (decimate n skip).2.toNat < n ∧ (skip.toNat + 1 ≠ n → (decimate n skip).2.toNat = skip.toNat + 1) := by
  obtain ⟨he, hd⟩ | ⟨he, hd⟩ := decimate_cases n skip
  · simp only [hd]
    exact ⟨by simpa using (by omega : 0 < n), fun hne => absurd he hne⟩
  · have hone : (skip + 1).toNat = skip.toNat + 1 := by
      rw [BitVec.toNat_add, show (1 : Half).toNat = 1 from rfl, Nat.mod_eq_of_lt (by omega)]
    rw [hd]
    exact ⟨by rw [hone]; omega, fun _ => hone⟩

end Sys2Proof.Machine
end

