-- ==== Sys2Proof/Laws/Datapath.lean ====
section
/-! SUPPORT. What the 64-bit datapath's operand and narrowing compute, in plain integers (41_tick.md R132). -/

namespace Sys2Proof.Machine

/-- An operand that fits 64 bits is the number it stands for. -/
theorem word64_toNat {n : Nat} (h : n < 2 ^ 64) : (word64 n).toNat = n := by
  rw [word64, BitVec.toNat_ofNat, Nat.mod_eq_of_lt h]

/-- Narrowing a signed 64-bit value saturates it as `satU_16` saturates its integer (00_scope.md R12). -/
theorem narrow64_eq (v : BitVec 64) : narrow64 v = satU 16 v.toInt := by
  have hs := satU_toInt 16 v.toInt
  have hlt := v.isLt
  have hv := BitVec.toInt_eq_toNat_cond v
  have h0 : (0 : BitVec 64).toInt = 0 := by decide
  have hmax : (0xFFFF : BitVec 64).toInt = 65535 := by decide
  rw [← BitVec.toNat_inj]
  unfold narrow64
  split
  · next h =>
    rw [BitVec.slt_iff_toInt_lt, h0] at h
    simp at *
    omega
  · next h =>
    rw [BitVec.slt_iff_toInt_lt, h0] at h
    split
    · next g =>
      rw [BitVec.slt_iff_toInt_lt, hmax] at g
      simp at *
      omega
    · next g =>
      rw [BitVec.slt_iff_toInt_lt, hmax] at g
      rw [BitVec.toNat_setWidth]
      split at hv <;> omega

end Sys2Proof.Machine
end

