-- ==== Sys2Proof/Laws/Decode.lean ====
section
/-! SUPPORT. The algebra of operation words: a word is its three fields, masks act field by field, and the codes of the
enumerations invert. -/

namespace Sys2Proof

/-! ### A word is {OP, A, IMM} (30_encoding.md R90) -/

/-- A word is put together from its own fields. -/
theorem assembleWord_fields (w : OpWord) :
    assembleWord (w.extractLsb' 24 8) (w.extractLsb' 16 8) (w.extractLsb' 0 16) = w := by
  apply BitVec.eq_of_getLsbD_eq
  intro i hi
  simp only [assembleWord, BitVec.getLsbD_append, BitVec.getLsbD_extractLsb', Nat.zero_add]
  split
  · next h => simp [h]
  · split
    · next h => simp [h, show 16 + (i - 16) = i by omega]
    · next h h2 => simp [show 24 + (i - 16 - 8) = i by omega, show i - 16 - 8 < 8 by omega]

@[simp] theorem op_assembleWord (op a : Byte) (imm : Half) : (assembleWord op a imm).extractLsb' 24 8 = op := by
  apply BitVec.eq_of_getLsbD_eq
  intro i hi
  simp only [assembleWord, BitVec.getLsbD_append, BitVec.getLsbD_extractLsb']
  simp [hi, show ¬ 24 + i < 16 by omega, show ¬ 24 + i - 16 < 8 by omega, show 24 + i - 16 - 8 = i by omega]

@[simp] theorem a_assembleWord (op a : Byte) (imm : Half) : (assembleWord op a imm).extractLsb' 16 8 = a := by
  apply BitVec.eq_of_getLsbD_eq
  intro i hi
  simp only [assembleWord, BitVec.getLsbD_append, BitVec.getLsbD_extractLsb']
  simp [hi]

@[simp] theorem imm_assembleWord (op a : Byte) (imm : Half) : (assembleWord op a imm).extractLsb' 0 16 = imm := by
  apply BitVec.eq_of_getLsbD_eq
  intro i hi
  simp only [assembleWord, BitVec.getLsbD_append, BitVec.getLsbD_extractLsb']
  simp [hi]

/-- A field inside A is a field of A. -/
theorem extractLsb'_assembleWord_a (op a : Byte) (imm : Half) {lo len : Nat} (h : lo + len ≤ 8) :
    (assembleWord op a imm).extractLsb' (16 + lo) len = a.extractLsb' lo len := by
  apply BitVec.eq_of_getLsbD_eq
  intro i hi
  simp only [assembleWord, BitVec.getLsbD_append, BitVec.getLsbD_extractLsb']
  have h8 : lo + i < 8 := by omega
  simp [hi, show ¬ 16 + lo + i < 16 by omega, show 16 + lo + i - 16 = lo + i by omega, h8]

/-- Two words are equal when their fields are. -/
theorem assembleWord_inj (op op' a a' : Byte) (imm imm' : Half) :
    assembleWord op a imm = assembleWord op' a' imm' ↔ op = op' ∧ a = a' ∧ imm = imm' := by
  refine ⟨fun h => ⟨?_, ?_, ?_⟩, ?_⟩
  · simpa using congrArg (BitVec.extractLsb' 24 8) h
  · simpa using congrArg (BitVec.extractLsb' 16 8) h
  · simpa using congrArg (BitVec.extractLsb' 0 16) h
  · rintro ⟨rfl, rfl, rfl⟩
    rfl

/-- A mask acts on each field by itself. -/
theorem assembleWord_and (op op' a a' : Byte) (imm imm' : Half) :
    assembleWord op a imm &&& assembleWord op' a' imm' = assembleWord (op &&& op') (a &&& a') (imm &&& imm') := by
  apply BitVec.eq_of_getLsbD_eq
  intro i hi
  simp only [assembleWord, BitVec.getLsbD_and, BitVec.getLsbD_append]
  split
  · rfl
  · split <;> rfl

/-- A disjunction acts on each field by itself. -/
theorem assembleWord_or (op op' a a' : Byte) (imm imm' : Half) :
    assembleWord op a imm ||| assembleWord op' a' imm' = assembleWord (op ||| op') (a ||| a') (imm ||| imm') := by
  apply BitVec.eq_of_getLsbD_eq
  intro i hi
  simp only [assembleWord, BitVec.getLsbD_or, BitVec.getLsbD_append]
  split
  · rfl
  · split <;> rfl

/-- A row selects a word exactly when each field, masked, is the row's. -/
theorem selects_assembleWord {r : Row} {mo ma vo va : Byte} {mi vi : Half} (hm : r.mask = assembleWord mo ma mi)
    (hv : r.matchBits = assembleWord vo va vi) (op a : Byte) (imm : Half) :
    r.Selects (assembleWord op a imm) ↔ op &&& mo = vo ∧ a &&& ma = va ∧ imm &&& mi = vi := by
  rw [Row.Selects, hm, hv, assembleWord_and, assembleWord_inj]

/-! ### The parameter-dependent must-be-zero bits (30_encoding.md R93) -/

/-- The high part of IMM as a field: `immHigh` is zero in OP and A. -/
theorem immHigh_eq (width : Nat) :
    immHigh width = assembleWord 0 0 (~~~(BitVec.ofNat 16 (2 ^ width - 1))) := by
  apply BitVec.eq_of_getLsbD_eq
  intro i hi
  have h16 : (0xFFFF : BitVec 32).getLsbD i = decide (i < 16) := by
    interval_cases i <;> decide
  simp only [immHigh, assembleWord, BitVec.getLsbD_append, BitVec.getLsbD_and, BitVec.getLsbD_not,
    BitVec.getLsbD_ofNat, h16, hi]
  by_cases h : i < 16 <;> simp [h]

/-- An immediate has none of the bits at and above `width` set exactly when it fits `width` bits. -/
theorem imm_and_high_eq_zero (imm : Half) (width : Nat) :
    imm &&& ~~~(BitVec.ofNat 16 (2 ^ width - 1)) = 0 ↔ imm.toNat < 2 ^ width := by
  constructor
  · intro h
    apply Nat.lt_pow_two_of_testBit
    intro i hi
    by_cases h16 : i < 16
    · have hb := congrArg (BitVec.getLsbD · i) h
      simp only [BitVec.getLsbD_and, BitVec.getLsbD_not, BitVec.getLsbD_ofNat, Nat.testBit_two_pow_sub_one] at hb
      simpa [h16, show ¬ i < width by omega, BitVec.testBit_toNat] using hb
    · rw [BitVec.testBit_toNat]
      exact BitVec.getLsbD_of_ge _ _ (by omega)
  · intro h
    apply BitVec.eq_of_getLsbD_eq
    intro i hi
    simp only [BitVec.getLsbD_and, BitVec.getLsbD_not, BitVec.getLsbD_ofNat, Nat.testBit_two_pow_sub_one, hi]
    by_cases hw : i < width
    · simp [hw]
    · have : imm.getLsbD i = false := by
        rw [← BitVec.testBit_toNat]
        exact Nat.testBit_lt_two_pow (lt_of_lt_of_le h (Nat.pow_le_pow_right (by norm_num) (by omega)))
      simp [this]

/-! ### The codes of the enumerations (92_eei_decisions.md D8) -/

@[simp] theorem RunMode.ofCode_code (m : RunMode) : RunMode.ofCode m.code = m := by cases m <;> rfl

@[simp] theorem ControlMode.ofCode_code (m : ControlMode) : ControlMode.ofCode m.code = m := by cases m <;> rfl

@[simp] theorem InputAction.ofCode_code (a : InputAction) : InputAction.ofCode a.code = a := by cases a <;> rfl

@[simp] theorem InputId.ofCode_code (id : InputId) : InputId.ofCode id.code = some id := by cases id <;> rfl

@[simp] theorem flagOfBit_ofBool (b : Bool) : flagOfBit (BitVec.ofBool b) = b := by cases b <;> rfl

/-- A two-bit field names an input exactly when it is 1 or 2. -/
theorem InputId.ofCode_cases (b : BitVec 2) :
    (b = 1 ∧ InputId.ofCode b = some .input1) ∨ (b = 2 ∧ InputId.ofCode b = some .input2) ∨
    (b ≠ 1 ∧ b ≠ 2 ∧ InputId.ofCode b = none) := by
  revert b
  decide

/-! ### The fields of A that the encoder puts together (30_encoding.md R93) -/

theorem lowBitA_code (b : BitVec 1) : (lowBitA b).extractLsb' 0 1 = b ∧ lowBitA b &&& 0xFE = 0 := by
  revert b
  decide

theorem bindA_fields (id : InputId) (action : InputAction) (announce : Bool) :
    (bindA id action announce).extractLsb' 4 2 = id.code ∧ (bindA id action announce).extractLsb' 0 2 = action.code ∧
    (bindA id action announce).extractLsb' 2 1 = BitVec.ofBool announce ∧ bindA id action announce &&& 0xC8 = 0 := by
  cases id <;> cases action <;> cases announce <;> decide

theorem inedgeA_fields (id : InputId) (asserted : Bool) :
    (inedgeA id asserted).extractLsb' 4 2 = id.code ∧
    (inedgeA id asserted).extractLsb' 0 1 = BitVec.ofBool asserted ∧ inedgeA id asserted &&& 0xCE = 0 := by
  cases id <;> cases asserted <;> decide

/-! ### The decode procedure, field by field -/

/-- Two words are equal exactly when their fields are. -/
theorem eq_iff_fields (w m : OpWord) :
    w = m ↔ w.extractLsb' 24 8 = m.extractLsb' 24 8 ∧ w.extractLsb' 16 8 = m.extractLsb' 16 8
      ∧ w.extractLsb' 0 16 = m.extractLsb' 0 16 := by
  rw [← assembleWord_inj, assembleWord_fields, assembleWord_fields]

/-- A word selects a row exactly when each of its fields, masked, is the row's. -/
theorem selects_iff_fields (w mask m : OpWord) :
    w &&& mask = m ↔
      w.extractLsb' 24 8 &&& mask.extractLsb' 24 8 = m.extractLsb' 24 8
      ∧ w.extractLsb' 16 8 &&& mask.extractLsb' 16 8 = m.extractLsb' 16 8
      ∧ w.extractLsb' 0 16 &&& mask.extractLsb' 0 16 = m.extractLsb' 0 16 := by
  rw [eq_iff_fields, BitVec.extractLsb'_and, BitVec.extractLsb'_and, BitVec.extractLsb'_and]


@[simp] theorem byte_and_ff (x : Byte) : x &&& 255#8 = x := BitVec.and_allOnes

@[simp] theorem half_and_ffff (x : Half) : x &&& 65535#16 = x := BitVec.and_allOnes

/-- The row of PWMEDGE, whose mask depends on TS_WIDTH, selects by the width of the timestamp. -/
theorem selects_pwmedge (w : OpWord) (width : Nat) :
    w &&& (4294836224#32 ||| immHigh width) = 536870912#32 ↔
      w.extractLsb' 24 8 = 32#8 ∧ w.extractLsb' 16 8 &&& 254#8 = 0#8 ∧ (w.extractLsb' 0 16).toNat < 2 ^ width := by
  rw [immHigh_eq, show 4294836224#32 = assembleWord 255#8 254#8 0#16 from rfl, assembleWord_or, selects_iff_fields,
    ← imm_and_high_eq_zero]
  simp

/-- The row of ADCDONE, whose mask depends on ADC_BITS, selects by the width of the value. -/
theorem selects_adcdone (w : OpWord) (width : Nat) :
    w &&& (4294901760#32 ||| immHigh width) = 805306368#32 ↔
      w.extractLsb' 24 8 = 48#8 ∧ w.extractLsb' 16 8 = 0#8 ∧ (w.extractLsb' 0 16).toNat < 2 ^ width := by
  rw [immHigh_eq, show 4294901760#32 = assembleWord 255#8 255#8 0#16 from rfl, assembleWord_or, selects_iff_fields,
    ← imm_and_high_eq_zero]
  simp

/-- The decode procedure with every row's test read off the word's three fields (30_encoding.md R93, R95). -/
theorem decode_eq_fields (p : Params) (w : OpWord) : decode p w =
    let op := w.extractLsb' 24 8
    let a := w.extractLsb' 16 8
    let imm := w.extractLsb' 0 16
    if op = 1#8 ∧ a = 0#8 then .operation (.setfreq imm)
    else if op = 2#8 ∧ a = 0#8 then .operation (.setpwr imm)
    else if op = 3#8 ∧ a &&& 254#8 = 0#8 then .operation (.setrun (RunMode.ofCode (w.extractLsb' 16 1)) imm)
    else if op = 4#8 ∧ a &&& 254#8 = 0#8 ∧ imm = 0#16 then
      .operation (.setctl (ControlMode.ofCode (w.extractLsb' 16 1)))
    else if op = 5#8 ∧ a &&& 200#8 = 0#8 ∧ imm = 0#16 then
      match InputId.ofCode (w.extractLsb' 20 2) with
      | some id => .operation
        (.setbind id (InputAction.ofCode (w.extractLsb' 16 2)) (flagOfBit (w.extractLsb' 18 1)))
      | none => .reserved .inputId
    else if op = 6#8 ∧ a = 0#8 ∧ imm = 0#16 then .operation .turnon
    else if op = 7#8 ∧ a = 0#8 ∧ imm = 0#16 then .operation .turnoff
    else if op = 8#8 ∧ a &&& 254#8 = 0#8 ∧ imm = 0#16 then .operation (.setestop (flagOfBit (w.extractLsb' 16 1)))
    else if op = 9#8 ∧ a = 0#8 then .operation (.setpos imm)
    else if op = 10#8 ∧ a &&& 240#8 = 0#8 ∧ imm = 0#16 then .operation (.readreg (w.extractLsb' 16 4))
    else if op = 16#8 ∧ a = 0#8 ∧ imm = 0#16 then .operation .tick
    else if op = 32#8 ∧ a &&& 254#8 = 0#8 ∧ imm.toNat < 2 ^ p.tsWidth then
      .operation (.pwmedge (flagOfBit (w.extractLsb' 16 1)) imm)
    else if op = 48#8 ∧ a = 0#8 ∧ imm.toNat < 2 ^ p.adcBits then .operation (.adcdone imm)
    else if op = 64#8 ∧ a &&& 206#8 = 0#8 ∧ imm = 0#16 then
      match InputId.ofCode (w.extractLsb' 20 2) with
      | some id => .operation (.inedge id (flagOfBit (w.extractLsb' 16 1)))
      | none => .reserved .inputId
    else .reserved (unselectedCause w) := by
  simp only [decode, opcodeMap, decodeRows, Row.Selects, BitVec.ofNat_eq_ofNat, selects_pwmedge, selects_adcdone]
  simp only [selects_iff_fields w]
  cases InputId.ofCode (w.extractLsb' 20 2) <;> simp

end Sys2Proof
end

