-- ==== Sys2Proof/Laws/State.lean ====
section
/-! SUPPORT. One lemma per field per named update of the state, true by rfl, so that no later proof unfolds an update. -/

namespace Sys2Proof.Machine

/-! ### emit -/

@[simp] theorem emit_cfg (e : OutputEvent) (s : State) : (emit e s).cfg = s.cfg := rfl
@[simp] theorem emit_st (e : OutputEvent) (s : State) : (emit e s).st = s.st := rfl
@[simp] theorem emit_pwm (e : OutputEvent) (s : State) : (emit e s).pwm = s.pwm := rfl
@[simp] theorem emit_adc (e : OutputEvent) (s : State) : (emit e s).adc = s.adc := rfl
@[simp] theorem emit_log (e : OutputEvent) (s : State) : (emit e s).log = s.log ++ [e] := rfl
@[simp] theorem emit_params (e : OutputEvent) (s : State) : (emit e s).params = s.params := rfl
@[simp] theorem emit_inbox (e : OutputEvent) (s : State) : (emit e s).inbox = s.inbox := rfl
@[simp] theorem emit_submitter (e : OutputEvent) (s : State) : (emit e s).submitter = s.submitter := rfl
@[simp] theorem emit_responses (e : OutputEvent) (s : State) : (emit e s).responses = s.responses := rfl

/-! ### answered -/

@[simp] theorem answered_cfg (code : ResponseCode) (data : Half) (s : State) : (answered code data s).cfg = s.cfg := rfl
@[simp] theorem answered_st (code : ResponseCode) (data : Half) (s : State) : (answered code data s).st = s.st := rfl
@[simp] theorem answered_pwm (code : ResponseCode) (data : Half) (s : State) : (answered code data s).pwm = s.pwm := rfl
@[simp] theorem answered_adc (code : ResponseCode) (data : Half) (s : State) : (answered code data s).adc = s.adc := rfl
@[simp] theorem answered_log (code : ResponseCode) (data : Half) (s : State) : (answered code data s).log = s.log := rfl
@[simp] theorem answered_params (code : ResponseCode) (data : Half) (s : State) : (answered code data s).params = s.params := rfl
@[simp] theorem answered_inbox (code : ResponseCode) (data : Half) (s : State) : (answered code data s).inbox = s.inbox := rfl
@[simp] theorem answered_submitter (code : ResponseCode) (data : Half) (s : State) : (answered code data s).submitter = s.submitter := rfl
@[simp] theorem answered_responses (code : ResponseCode) (data : Half) (s : State) : (answered code data s).responses = s.responses ++ [⟨s.submitter, code, data⟩] := rfl

/-! ### submittedBy -/

@[simp] theorem submittedBy_cfg (a : Agent) (s : State) : (submittedBy a s).cfg = s.cfg := rfl
@[simp] theorem submittedBy_st (a : Agent) (s : State) : (submittedBy a s).st = s.st := rfl
@[simp] theorem submittedBy_pwm (a : Agent) (s : State) : (submittedBy a s).pwm = s.pwm := rfl
@[simp] theorem submittedBy_adc (a : Agent) (s : State) : (submittedBy a s).adc = s.adc := rfl
@[simp] theorem submittedBy_log (a : Agent) (s : State) : (submittedBy a s).log = s.log := rfl
@[simp] theorem submittedBy_params (a : Agent) (s : State) : (submittedBy a s).params = s.params := rfl
@[simp] theorem submittedBy_inbox (a : Agent) (s : State) : (submittedBy a s).inbox = s.inbox := rfl
@[simp] theorem submittedBy_submitter (a : Agent) (s : State) : (submittedBy a s).submitter = a := rfl
@[simp] theorem submittedBy_responses (a : Agent) (s : State) : (submittedBy a s).responses = s.responses := rfl

/-! ### movePosition -/

@[simp] theorem movePosition_cfg (v : Nat) (s : State) : (movePosition v s).cfg = s.cfg := rfl
@[simp] theorem movePosition_st (v : Nat) (s : State) : (movePosition v s).st = { s.st with actuatorPosition := BitVec.ofNat 8 v } := rfl
@[simp] theorem movePosition_pwm (v : Nat) (s : State) : (movePosition v s).pwm = s.pwm := rfl
@[simp] theorem movePosition_adc (v : Nat) (s : State) : (movePosition v s).adc = s.adc := rfl
@[simp] theorem movePosition_log (v : Nat) (s : State) : (movePosition v s).log = s.log ++ [.potWrite (BitVec.ofNat 8 v)] := rfl
@[simp] theorem movePosition_params (v : Nat) (s : State) : (movePosition v s).params = s.params := rfl
@[simp] theorem movePosition_inbox (v : Nat) (s : State) : (movePosition v s).inbox = s.inbox := rfl
@[simp] theorem movePosition_submitter (v : Nat) (s : State) : (movePosition v s).submitter = s.submitter := rfl
@[simp] theorem movePosition_responses (v : Nat) (s : State) : (movePosition v s).responses = s.responses := rfl

/-! ### turnOff -/

@[simp] theorem turnOff_cfg (s : State) : (turnOff s).cfg = s.cfg := rfl
@[simp] theorem turnOff_st (s : State) : (turnOff s).st = { s.st with isOutputEnabled := false, runCountdownTicks := 0 } := rfl
@[simp] theorem turnOff_pwm (s : State) : (turnOff s).pwm = s.pwm := rfl
@[simp] theorem turnOff_adc (s : State) : (turnOff s).adc = s.adc := rfl
@[simp] theorem turnOff_log (s : State) : (turnOff s).log = s.log ++ [.genOff] := rfl
@[simp] theorem turnOff_params (s : State) : (turnOff s).params = s.params := rfl
@[simp] theorem turnOff_inbox (s : State) : (turnOff s).inbox = s.inbox := rfl
@[simp] theorem turnOff_submitter (s : State) : (turnOff s).submitter = s.submitter := rfl
@[simp] theorem turnOff_responses (s : State) : (turnOff s).responses = s.responses := rfl

/-! ### drainPwm -/

@[simp] theorem drainPwm_cfg (s : State) : ((drainPwm s).2).cfg = s.cfg := rfl
@[simp] theorem drainPwm_st (s : State) : ((drainPwm s).2).st = s.st := rfl
@[simp] theorem drainPwm_pwm (s : State) : ((drainPwm s).2).pwm = { s.pwm with onSum := 0, periodSum := 0, count := 0 } := rfl
@[simp] theorem drainPwm_adc (s : State) : ((drainPwm s).2).adc = s.adc := rfl
@[simp] theorem drainPwm_log (s : State) : ((drainPwm s).2).log = s.log := rfl
@[simp] theorem drainPwm_params (s : State) : ((drainPwm s).2).params = s.params := rfl
@[simp] theorem drainPwm_inbox (s : State) : ((drainPwm s).2).inbox = s.inbox := rfl
@[simp] theorem drainPwm_submitter (s : State) : ((drainPwm s).2).submitter = s.submitter := rfl
@[simp] theorem drainPwm_responses (s : State) : ((drainPwm s).2).responses = s.responses := rfl

/-! ### drainAdc -/

@[simp] theorem drainAdc_cfg (s : State) : ((drainAdc s).2).cfg = s.cfg := rfl
@[simp] theorem drainAdc_st (s : State) : ((drainAdc s).2).st = s.st := rfl
@[simp] theorem drainAdc_pwm (s : State) : ((drainAdc s).2).pwm = s.pwm := rfl
@[simp] theorem drainAdc_adc (s : State) : ((drainAdc s).2).adc = { s.adc with sum := 0, count := 0 } := rfl
@[simp] theorem drainAdc_log (s : State) : ((drainAdc s).2).log = s.log := rfl
@[simp] theorem drainAdc_params (s : State) : ((drainAdc s).2).params = s.params := rfl
@[simp] theorem drainAdc_inbox (s : State) : ((drainAdc s).2).inbox = s.inbox := rfl
@[simp] theorem drainAdc_submitter (s : State) : ((drainAdc s).2).submitter = s.submitter := rfl
@[simp] theorem drainAdc_responses (s : State) : ((drainAdc s).2).responses = s.responses := rfl

/-! ### measure: the drains and the reduction, but for the measured values -/

@[simp] theorem measure_cfg (s : State) : (measure s).cfg = s.cfg := rfl
@[simp] theorem measure_pwm (s : State) : (measure s).pwm = { s.pwm with onSum := 0, periodSum := 0, count := 0 } := rfl
@[simp] theorem measure_adc (s : State) : (measure s).adc = { s.adc with sum := 0, count := 0 } := rfl
@[simp] theorem measure_log (s : State) : (measure s).log = s.log := rfl
@[simp] theorem measure_params (s : State) : (measure s).params = s.params := rfl
@[simp] theorem measure_inbox (s : State) : (measure s).inbox = s.inbox := rfl
@[simp] theorem measure_submitter (s : State) : (measure s).submitter = s.submitter := rfl
@[simp] theorem measure_responses (s : State) : (measure s).responses = s.responses := rfl
@[simp] theorem measure_actuatorPosition (s : State) : (measure s).st.actuatorPosition = s.st.actuatorPosition := rfl
@[simp] theorem measure_runCountdownTicks (s : State) : (measure s).st.runCountdownTicks = s.st.runCountdownTicks := rfl
@[simp] theorem measure_isEmergencyStopped (s : State) : (measure s).st.isEmergencyStopped = s.st.isEmergencyStopped := rfl
@[simp] theorem measure_isOutputEnabled (s : State) : (measure s).st.isOutputEnabled = s.st.isOutputEnabled := rfl

/-! ### performReset -/

@[simp] theorem performReset_cfg (s : State) : (performReset s).cfg = s.params.defaultConfig := rfl
@[simp] theorem performReset_st (s : State) : (performReset s).st = ⟨0, 0, 0, 0, 0, 0, true, false⟩ := by
  simp [performReset, actSet]
@[simp] theorem performReset_pwm (s : State) : (performReset s).pwm = ⟨0, 0, 0, .waitFall, 0, 0, 0⟩ := rfl
@[simp] theorem performReset_adc (s : State) : (performReset s).adc = ⟨0, 0, 0⟩ := rfl
@[simp] theorem performReset_log (s : State) : (performReset s).log = [.genOff, .potWrite 0, .adcRestart] := by
  simp [performReset, actSet]
@[simp] theorem performReset_params (s : State) : (performReset s).params = s.params := rfl
@[simp] theorem performReset_inbox (s : State) : (performReset s).inbox = s.inbox := rfl
@[simp] theorem performReset_submitter (s : State) : (performReset s).submitter = s.submitter := rfl
@[simp] theorem performReset_responses (s : State) : (performReset s).responses = s.responses := rfl

end Sys2Proof.Machine
end

