-- ==== Sys2Proof/Laws/Ops.lean ====
section
/-! SUPPORT. One lemma per shared operation that says once everything it can do. Proofs about the meanings cite these. -/

namespace Sys2Proof.Machine

/-! ### Responses (00_scope.md R14) -/

/-- `respond` always answers a next state, the answered one. -/
theorem respond_eq (code : ResponseCode) (data : Half) (s : State) : respond code data s = .next (answered code data s) :=
  rfl

/-- `reject` answers with data 0 and changes nothing else. -/
theorem reject_eq (code : ResponseCode) (s : State) : reject code s = .next (answered code 0 s) := rfl

/-! ### The actuator (42_actuator.md R150 to R152) -/

/-- `ActSet` moves to the clamped step. -/
theorem actSet_eq (v : Nat) (s : State) : actSet v s = movePosition (min v s.params.maxStep) s := rfl

/-- `ActIncrement` moves one step up below MAX_STEP, and does nothing there. -/
theorem actIncrement_cases (s : State) :
    (s.st.actuatorPosition.toNat < s.params.maxStep ∧ actIncrement s = movePosition (s.st.actuatorPosition.toNat + 1) s) ∨
    (s.params.maxStep ≤ s.st.actuatorPosition.toNat ∧ actIncrement s = s) := by
  unfold actIncrement
  split
  · exact .inl ⟨‹_›, rfl⟩
  · exact .inr ⟨by omega, rfl⟩

/-- `ActDecrement` moves one step down above 0, and does nothing there. -/
theorem actDecrement_cases (s : State) :
    (0 < s.st.actuatorPosition.toNat ∧ actDecrement s = movePosition (s.st.actuatorPosition.toNat - 1) s) ∨
    (s.st.actuatorPosition.toNat = 0 ∧ actDecrement s = s) := by
  unfold actDecrement
  split
  · exact .inl ⟨‹_›, rfl⟩
  · exact .inr ⟨by omega, rfl⟩

/-! ### Transitions (43_state_machine.md R160 to R162) -/

/-- The state TurnOn leaves when it enables the output. -/
def enabledState (s : State) : State :=
  { s with
    st := { s.st with
      isOutputEnabled := true
      runCountdownTicks := if s.cfg.runMode = .timed then s.cfg.runTimerTicks else s.st.runCountdownTicks }
    log := s.log ++ [.genOn s.params.waveformKind s.cfg.frequencyHz] }

/-- `TurnOn` is refused while EStopped, enables the output from Idle, and changes nothing while Running. -/
theorem turnOn_cases (s : State) :
    (s.st.isEmergencyStopped = true ∧ turnOn s = (false, s)) ∨
    (s.st.isEmergencyStopped = false ∧ s.st.isOutputEnabled = true ∧ turnOn s = (true, s)) ∨
    (s.st.isEmergencyStopped = false ∧ s.st.isOutputEnabled = false ∧ turnOn s = (true, enabledState s)) := by
  unfold turnOn
  cases he : s.st.isEmergencyStopped <;> cases ho : s.st.isOutputEnabled <;> simp [enabledState, emit, he]

/-- `SetEStop(1)` sets the flag and turns the output off. -/
theorem setEStop_true (s : State) :
    setEStop true s = { s with
      st := { s.st with isEmergencyStopped := true, isOutputEnabled := false, runCountdownTicks := 0 }
      log := s.log ++ [.genOff] } := rfl

/-- `SetEStop(0)` clears the flag and nothing else. -/
theorem setEStop_false (s : State) :
    setEStop false s = { s with st := { s.st with isEmergencyStopped := false } } := rfl

/-! ### The stages of a tick (41_tick.md) -/

/-- The measuring stage writes the four measured values from the accumulators as they stood (R131). -/
theorem measure_st (s : State) :
    (measure s).st = { s.st with
      measuredFrequencyHz := satU 16 (frequencyOf s.params s.pwm.periodSum.toNat s.pwm.count.toNat)
      measuredDutyCycleDeciPercent := satU 16 (dutyOf s.pwm.onSum.toNat s.pwm.periodSum.toNat s.pwm.count.toNat)
      measuredCurrentDeciAmps := satU 16 (currentOf s.params s.adc.sum.toNat s.adc.count.toNat)
      measuredPowerDeciWatts := satU 16 (powerOf s.params
        (satU 16 (currentOf s.params s.adc.sum.toNat s.adc.count.toNat))
        (satU 16 (dutyOf s.pwm.onSum.toNat s.pwm.periodSum.toNat s.pwm.count.toNat))) } := rfl

/-- The duty of a window whose on-time is at most its period is at most 1000 (10_state.md R52). -/
theorem dutyOf_le {on per : Nat} (pcnt : Nat) (h : on ≤ per) : dutyOf on per pcnt ≤ 1000 := by
  unfold dutyOf
  split
  · omega
  · exact Nat.div_le_of_le_mul (by nlinarith)

/-- `Regulate` keeps the state, or moves one step down above 0, or one step up below MAX_STEP, each under the comparison
of R133 that asks for it. -/
theorem regulate_cases (s : State) :
    regulate s = s ∨
    (s.cfg.powerDeciWatts.toNat < s.st.measuredPowerDeciWatts.toNat ∧ s.st.measuredDutyCycleDeciPercent.toNat ≠ 0 ∧
      0 < s.st.actuatorPosition.toNat ∧ regulate s = movePosition (s.st.actuatorPosition.toNat - 1) s) ∨
    (s.st.measuredPowerDeciWatts.toNat < s.cfg.powerDeciWatts.toNat ∧
      s.st.measuredDutyCycleDeciPercent.toNat ≤ s.params.dutyMaxThreshold ∧
      s.st.actuatorPosition.toNat < s.params.maxStep ∧ regulate s = movePosition (s.st.actuatorPosition.toNat + 1) s) := by
  unfold regulate
  dsimp only
  split
  · split
    · next hm hd =>
      obtain ⟨hp, he⟩ | ⟨-, he⟩ := actDecrement_cases s
      · exact .inr (.inl ⟨hm, hd.1, hp, he⟩)
      · exact .inl he
    · exact .inl rfl
  · split
    · split
      · next hm hd =>
        obtain ⟨hp, he⟩ | ⟨-, he⟩ := actIncrement_cases s
        · exact .inr (.inr ⟨hm, hd.1, hp, he⟩)
        · exact .inl he
      · exact .inl rfl
    · exact .inl rfl

/-- The regulation stage keeps the state, or, enabled, moves the actuator by one step within [0, MAX_STEP]. -/
theorem regulateStage_cases (s : State) :
    regulateStage s = s ∨
    (s.st.isOutputEnabled = true ∧ s.cfg.controlMode = .constantFrequency ∧ ∃ v, regulateStage s = movePosition v s ∧
      ((v + 1 = s.st.actuatorPosition.toNat) ∨ (v = s.st.actuatorPosition.toNat + 1 ∧ v ≤ s.params.maxStep))) := by
  unfold regulateStage
  split
  · next h =>
    obtain he | ⟨-, -, hp, he⟩ | ⟨-, -, hp, he⟩ := regulate_cases s
    · exact .inl he
    · exact .inr ⟨h.1, h.2, _, he, .inl (by omega)⟩
    · exact .inr ⟨h.1, h.2, _, he, .inr ⟨rfl, by omega⟩⟩
  · exact .inl rfl

/-- The countdown stage does nothing to a run that is not enabled and Timed; else it turns the output off with one tick
or none left, or leaves one tick fewer (R136). -/
theorem countdownStage_cases (s : State) :
    ((s.st.isOutputEnabled = false ∨ s.cfg.runMode = .continuous) ∧ countdownStage s = s) ∨
    (s.st.isOutputEnabled = true ∧ s.cfg.runMode = .timed ∧ s.st.runCountdownTicks.toNat ≤ 1 ∧
      countdownStage s = turnOff s) ∨
    (s.st.isOutputEnabled = true ∧ s.cfg.runMode = .timed ∧ 1 < s.st.runCountdownTicks.toNat ∧
      countdownStage s = { s with st := { s.st with
        runCountdownTicks := BitVec.ofNat 16 (s.st.runCountdownTicks.toNat - 1) } }) := by
  unfold countdownStage
  split
  · next h =>
    dsimp only
    have hlt := s.st.runCountdownTicks.isLt
    have hz : BitVec.ofNat 16 (s.st.runCountdownTicks.toNat - 1) = 0 ↔ s.st.runCountdownTicks.toNat ≤ 1 := by
      rw [← BitVec.toNat_inj, BitVec.toNat_ofNat, Nat.mod_eq_of_lt (by omega)]
      simp only [BitVec.ofNat_eq_ofNat, BitVec.toNat_ofNat, Nat.zero_mod]
      omega
    split
    · next h0 => exact .inr (.inl ⟨h.1, h.2, hz.mp h0, rfl⟩)
    · next h0 => exact .inr (.inr ⟨h.1, h.2, by have := mt hz.mpr h0; omega, rfl⟩)
  · next h =>
    refine .inl ⟨?_, rfl⟩
    cases ho : s.st.isOutputEnabled
    · exact .inl rfl
    · cases hm : s.cfg.runMode
      · exact .inr rfl
      · exact absurd ⟨ho, hm⟩ h

/-- What the regulation stage leaves alone: everything but the position and the log. -/
@[simp] theorem regulateStage_keeps (s : State) :
    (regulateStage s).cfg = s.cfg ∧ (regulateStage s).pwm = s.pwm ∧ (regulateStage s).adc = s.adc ∧
    (regulateStage s).params = s.params ∧ (regulateStage s).inbox = s.inbox ∧
    (regulateStage s).submitter = s.submitter ∧ (regulateStage s).responses = s.responses ∧
    (regulateStage s).st.measuredFrequencyHz = s.st.measuredFrequencyHz ∧
    (regulateStage s).st.measuredDutyCycleDeciPercent = s.st.measuredDutyCycleDeciPercent ∧
    (regulateStage s).st.measuredCurrentDeciAmps = s.st.measuredCurrentDeciAmps ∧
    (regulateStage s).st.measuredPowerDeciWatts = s.st.measuredPowerDeciWatts ∧
    (regulateStage s).st.runCountdownTicks = s.st.runCountdownTicks ∧
    (regulateStage s).st.isEmergencyStopped = s.st.isEmergencyStopped ∧
    (regulateStage s).st.isOutputEnabled = s.st.isOutputEnabled := by
  obtain h | ⟨-, -, v, h, -⟩ := regulateStage_cases s <;> simp [h]

/-- What the countdown stage leaves alone: everything but the countdown, the enable and the log. -/
@[simp] theorem countdownStage_keeps (s : State) :
    (countdownStage s).cfg = s.cfg ∧ (countdownStage s).pwm = s.pwm ∧ (countdownStage s).adc = s.adc ∧
    (countdownStage s).params = s.params ∧ (countdownStage s).inbox = s.inbox ∧
    (countdownStage s).submitter = s.submitter ∧ (countdownStage s).responses = s.responses ∧
    (countdownStage s).st.measuredFrequencyHz = s.st.measuredFrequencyHz ∧
    (countdownStage s).st.measuredDutyCycleDeciPercent = s.st.measuredDutyCycleDeciPercent ∧
    (countdownStage s).st.measuredCurrentDeciAmps = s.st.measuredCurrentDeciAmps ∧
    (countdownStage s).st.measuredPowerDeciWatts = s.st.measuredPowerDeciWatts ∧
    (countdownStage s).st.actuatorPosition = s.st.actuatorPosition ∧
    (countdownStage s).st.isEmergencyStopped = s.st.isEmergencyStopped := by
  obtain ⟨-, h⟩ | ⟨-, -, -, h⟩ | ⟨-, -, -, h⟩ := countdownStage_cases s <;> simp [h]

/-! ### The sample operations (40_aggregator.md R110, R112) -/

/-- An edge changes nothing, is counted and skipped, starts a cycle, latches the first rising edge, or completes the
cycle. -/
theorem captureEdge_cases (p : Params) (rising : Bool) (ts : Half) (pwm : PwmAccumulator) :
    captureEdge p rising ts pwm = pwm ∨
    (pwm.phase = .waitFall ∧ rising = false ∧ pwm.skip.toNat + 1 ≠ p.pwmDecim ∧
      captureEdge p rising ts pwm = { pwm with skip := (decimate p.pwmDecim pwm.skip).2 }) ∨
    (pwm.phase = .waitFall ∧ rising = false ∧ pwm.skip.toNat + 1 = p.pwmDecim ∧
      captureEdge p rising ts pwm = { pwm with skip := 0, tFall := ts, phase := .waitRise1 }) ∨
    (pwm.phase = .waitRise1 ∧ rising = true ∧
      captureEdge p rising ts pwm = { pwm with tRise1 := ts, phase := .waitRise2 }) ∨
    (pwm.phase = .waitRise2 ∧ rising = true ∧ captureEdge p rising ts pwm = addCycle p ts pwm) := by
  unfold captureEdge
  cases hp : pwm.phase <;> cases rising <;> simp only [Bool.false_eq_true, if_false, if_true, true_and, false_and,
    or_false, reduceCtorEq, or_true]
  obtain ⟨he, hd⟩ | ⟨he, hd⟩ := decimate_cases p.pwmDecim pwm.skip
  · simp [hd, he]
  · simp [hd, he]

/-- A completed cycle keeps the on-time sum at most the period sum (10_state.md R52) and touches no latch. -/
theorem addCycle_onSum_le (p : Params) (ts : Half) {pwm : PwmAccumulator} (h : pwm.onSum.toNat ≤ pwm.periodSum.toNat) :
    (addCycle p ts pwm).onSum.toNat ≤ (addCycle p ts pwm).periodSum.toNat :=
  addsat_mono h (Nat.sub_le _ _)

/-- A conversion is counted and skipped, or added to the saturating sum. -/
theorem addConversion_cases (p : Params) (value : Half) (adc : AdcAccumulator) :
    (adc.skip.toNat + 1 ≠ p.adcDecim ∧
      addConversion p value adc = { adc with skip := (decimate p.adcDecim adc.skip).2 }) ∨
    (adc.skip.toNat + 1 = p.adcDecim ∧
      addConversion p value adc = ⟨addsat adc.sum value.toNat, addsat adc.count 1, 0⟩) := by
  unfold addConversion
  obtain ⟨he, hd⟩ | ⟨he, hd⟩ := decimate_cases p.adcDecim adc.skip
  · exact .inr ⟨he, by simp [hd]⟩
  · exact .inl ⟨he, by simp [hd]⟩

/-! ### Stimuli -/

/-- The front of the inbox is taken, or there is none. -/
theorem takeStimulus_cases (s : State) :
    (s.inbox = [] ∧ takeStimulus s = none) ∨
    (∃ x rest, s.inbox = x :: rest ∧ takeStimulus s = some (x, { s with inbox := rest })) := by
  unfold takeStimulus
  cases h : s.inbox with
  | nil => exact .inl ⟨rfl, rfl⟩
  | cons x rest => exact .inr ⟨x, rest, rfl, rfl⟩

end Sys2Proof.Machine
end

