-- ==== Sys2Proof/Laws/Exec.lean ====
section
/-! SUPPORT. What the fourteen operations can do, said once: every outcome of `exec` is one of the effects below, so that a
proof about all operations is a case analysis of `exec_effect` and unfolds no meaning. -/

namespace Sys2Proof.Machine

/-! ### TICK and INEDGE -/

/-- TICK's outcome (41_tick.md R130). -/
theorem exec_tick (s : State) :
    exec .tick s = .next (answered .ok 0 (countdownStage (regulateStage (measure s)))) := rfl

/-- What the action of a binding leaves on an edge: nothing done, an enabled output, or one turned off (44_inputs.md
R201). -/
theorem inputAct_cases (action : InputAction) (asserted : Bool) (s : State) :
    inputAct action asserted s = s ∨
    (asserted = true ∧ action ∈ [.momentaryControl, .toggleControl] ∧ s.st.isEmergencyStopped = false ∧
      s.st.isOutputEnabled = false ∧ inputAct action asserted s = enabledState s) ∨
    (action ∈ [.momentaryControl, .toggleControl] ∧ inputAct action asserted s = turnOff s) ∨
    (asserted = true ∧ action = .emergencyStop ∧ inputAct action asserted s = setEStop true s) := by
  unfold inputAct
  obtain ⟨he, h⟩ | ⟨he, ho, h⟩ | ⟨he, ho, h⟩ := turnOn_cases s <;> cases action <;> cases asserted <;> simp [*]
  cases s.st.isOutputEnabled <;> simp

/-! ### All operations -/

/-- The effects of the operations: `Effect s i t` when performing `i` in `s` may leave `t`. -/
inductive Effect (s : State) : Instr → State → Prop
  /-- an answer and nothing else: a rejection, a READREG, a TURNON while Running -/
  | answer (i : Instr) (code : ResponseCode) (data : Half) : Effect s i (answered code data s)
  /-- SETFREQ accepted -/
  | setfreq (hz : Half) (lo : s.params.minFreq ≤ hz.toNat) (hi : hz.toNat ≤ s.params.maxFreq) : Effect s (.setfreq hz)
      (answered .ok 0 { s with cfg := { s.cfg with frequencyHz := hz }, log := s.log ++ [.genFreqWrite hz] })
  /-- SETPWR accepted -/
  | setpwr (dw : Half) (hi : dw.toNat ≤ s.params.maxPower) :
      Effect s (.setpwr dw) (answered .ok 0 { s with cfg := { s.cfg with powerDeciWatts := dw } })
  /-- SETRUN TIMED accepted -/
  | setTimed (ticks : Half) (lo : s.params.runTicksMin ≤ ticks.toNat) (hi : ticks.toNat ≤ s.params.runTicksMax) :
      Effect s (.setrun .timed ticks)
        (answered .ok 0 { s with cfg := { s.cfg with runMode := .timed, runTimerTicks := ticks } })
  /-- SETRUN CONT -/
  | setContinuous (ticks : Half) : Effect s (.setrun .continuous ticks)
      (answered .ok 0 { s with cfg := { s.cfg with runMode := .continuous } })
  /-- SETCTL -/
  | setctl (mode : ControlMode) :
      Effect s (.setctl mode) (answered .ok 0 { s with cfg := { s.cfg with controlMode := mode } })
  /-- SETBIND -/
  | setbind (id : InputId) (action : InputAction) (announce : Bool) :
      Effect s (.setbind id action announce) (answered .ok 0 { s with cfg := withBinding s.cfg id ⟨action, announce⟩ })
  /-- TURNON from Idle -/
  | turnon (noStop : s.st.isEmergencyStopped = false) (off : s.st.isOutputEnabled = false) :
      Effect s .turnon (answered .ok 0 (enabledState s))
  /-- TURNOFF -/
  | turnoff : Effect s .turnoff (answered .ok 0 (turnOff s))
  /-- SETESTOP -/
  | setestop (value : Bool) : Effect s (.setestop value) (answered .ok 0 (setEStop value s))
  /-- SETPOS -/
  | setpos (step : Half) (debug : s.params.hasDebugSetpos = true) :
      Effect s (.setpos step) (answered .ok 0 (movePosition (min step.toNat s.params.maxStep) s))
  /-- TICK -/
  | tick : Effect s .tick (answered .ok 0 (countdownStage (regulateStage (measure s))))
  /-- PWMEDGE -/
  | pwmedge (rising : Bool) (ts : Half) (fits : ts.toNat < 2 ^ s.params.tsWidth) : Effect s (.pwmedge rising ts)
      (answered .ok 0 { s with pwm := captureEdge s.params rising ts s.pwm })
  /-- ADCDONE -/
  | adcdone (value : Half) (fits : value.toNat < 2 ^ s.params.adcBits) : Effect s (.adcdone value)
      (answered .ok 0 { s with adc := addConversion s.params value s.adc, log := s.log ++ [.adcRestart] })
  /-- INEDGE of an input that does not announce -/
  | inedge (id : InputId) (asserted : Bool) (silent : (bindingOf s.cfg id).announce = false) :
      Effect s (.inedge id asserted) (answered .ok 0 (inputAct (bindingOf s.cfg id).action asserted s))
  /-- INEDGE of an input that announces -/
  | inedgeAnnounced (id : InputId) (asserted : Bool) (announces : (bindingOf s.cfg id).announce = true) :
      Effect s (.inedge id asserted)
        (answered .ok 0 (emit (.announce id asserted) (inputAct (bindingOf s.cfg id).action asserted s)))

/-- Every operation answers a next state, and it is one of its effects. -/
theorem exec_effect (i : Instr) (s : State) : ∃ t, exec i s = .next t ∧ Effect s i t := by
  cases i <;> simp only [exec, execSetfreq, execSetpwr, execSetrun, execSetctl, execSetbind, execTurnoff, execTurnon,
    execSetestop, execSetpos, execReadreg, execTick, execPwmedge, execAdcdone, execInedge, reject_eq, respond_eq]
  case setfreq hz =>
    split
    · exact ⟨_, rfl, .answer _ _ _⟩
    · exact ⟨_, rfl, .setfreq hz (by omega) (by omega)⟩
  case setpwr dw =>
    split
    · exact ⟨_, rfl, .answer _ _ _⟩
    · exact ⟨_, rfl, .setpwr dw (by omega)⟩
  case setrun mode ticks =>
    split
    · exact ⟨_, rfl, .answer _ _ _⟩
    · next h =>
      cases mode
      · exact ⟨_, rfl, .setContinuous ticks⟩
      · have := not_and.mp h rfl
        exact ⟨_, rfl, .setTimed ticks (by omega) (by omega)⟩
  case setctl mode => exact ⟨_, rfl, .setctl mode⟩
  case setbind id action announce => exact ⟨_, rfl, .setbind id action announce⟩
  case turnon =>
    obtain ⟨-, h⟩ | ⟨-, -, h⟩ | ⟨he, ho, h⟩ := turnOn_cases s <;> rw [h]
    · exact ⟨_, rfl, .answer _ _ _⟩
    · exact ⟨_, rfl, .answer _ _ _⟩
    · exact ⟨_, rfl, .turnon he ho⟩
  case turnoff => exact ⟨_, rfl, .turnoff⟩
  case setestop value => exact ⟨_, rfl, .setestop value⟩
  case setpos step =>
    split
    · next h => exact ⟨_, rfl, .setpos step h⟩
    · exact ⟨_, rfl, .answer _ _ _⟩
  case readreg idx => exact ⟨_, rfl, .answer _ _ _⟩
  case tick => exact ⟨_, rfl, .tick⟩
  case pwmedge rising ts =>
    split
    · next h => exact ⟨_, rfl, .pwmedge rising ts h⟩
    · exact ⟨_, rfl, .answer _ _ _⟩
  case adcdone value =>
    split
    · next h => exact ⟨_, rfl, .adcdone value h⟩
    · exact ⟨_, rfl, .answer _ _ _⟩
  case inedge id asserted =>
    cases hb : (bindingOf s.cfg id).announce
    · exact ⟨_, rfl, .inedge id asserted hb⟩
    · exact ⟨_, rfl, .inedgeAnnounced id asserted hb⟩

/-- The inversion: a next state of an operation is one of its effects. -/
theorem effect_of_exec {i : Instr} {s t : State} (h : exec i s = .next t) : Effect s i t := by
  obtain ⟨u, hu, he⟩ := exec_effect i s
  rw [hu] at h
  injection h with h
  exact h ▸ he

end Sys2Proof.Machine
end

