-- ==== Sys2Proof/Laws/PerInstr.lean ====
section
/-! SUPPORT. Facts about each operation as syntax, one lemma per constructor: its word carries the OP byte the opcode map
gives its row, so the encoder cannot confuse two operations. -/

namespace Sys2Proof.Laws

/-- The OP byte of an operation's row (30_encoding.md R93). -/
def opByte : Instr → Byte
  | .setfreq _ => 0x01
  | .setpwr _ => 0x02
  | .setrun _ _ => 0x03
  | .setctl _ => 0x04
  | .setbind _ _ _ => 0x05
  | .turnon => 0x06
  | .turnoff => 0x07
  | .setestop _ => 0x08
  | .setpos _ => 0x09
  | .readreg _ => 0x0A
  | .tick => 0x10
  | .pwmedge _ _ => 0x20
  | .adcdone _ => 0x30
  | .inedge _ _ => 0x40

/-- The word of an operation carries its row's OP byte in w[31:24]. -/
def EncodedOpByte.Statement (i : Instr) : Prop := (encode i).extractLsb' 24 8 = opByte i

theorem EncodedOpByte.setfreq (hz : Half) : Statement (.setfreq hz) := op_assembleWord _ _ _
theorem EncodedOpByte.setpwr (deciWatts : Half) : Statement (.setpwr deciWatts) := op_assembleWord _ _ _
theorem EncodedOpByte.setrun (mode : RunMode) (ticks : Half) : Statement (.setrun mode ticks) := op_assembleWord _ _ _
theorem EncodedOpByte.setctl (mode : ControlMode) : Statement (.setctl mode) := op_assembleWord _ _ _
theorem EncodedOpByte.setbind (id : InputId) (action : InputAction) (announce : Bool) :
    Statement (.setbind id action announce) := op_assembleWord _ _ _
theorem EncodedOpByte.turnon : Statement .turnon := op_assembleWord _ _ _
theorem EncodedOpByte.turnoff : Statement .turnoff := op_assembleWord _ _ _
theorem EncodedOpByte.setestop (value : Bool) : Statement (.setestop value) := op_assembleWord _ _ _
theorem EncodedOpByte.setpos (step : Half) : Statement (.setpos step) := op_assembleWord _ _ _
theorem EncodedOpByte.readreg (idx : BitVec 4) : Statement (.readreg idx) := op_assembleWord _ _ _
theorem EncodedOpByte.tick : Statement .tick := op_assembleWord _ _ _
theorem EncodedOpByte.pwmedge (rising : Bool) (ts : Half) : Statement (.pwmedge rising ts) := op_assembleWord _ _ _
theorem EncodedOpByte.adcdone (value : Half) : Statement (.adcdone value) := op_assembleWord _ _ _
theorem EncodedOpByte.inedge (id : InputId) (asserted : Bool) : Statement (.inedge id asserted) := op_assembleWord _ _ _

end Sys2Proof.Laws
end

