-- ==== Sys2Proof/Tests/Slice0.lean ====
section
/-! SUPPORT. Tests: the well-formedness checks, a word of every operation written out from 30_encoding.md R93, single
steps from the vectors of 95_test_vectors.md (named in each docstring), and for every statement with hypotheses a concrete
state and operands that meet them. -/

namespace Sys2Proof.Tests

open Sys2Proof Sys2Proof.Machine

/-! ### Well-formedness -/

/-- A timestamp of 13 bits does not fit an instance with TS_WIDTH 12 (vector A10b). -/
theorem test_wellFormed_pwmedge : ¬ (Instr.pwmedge false 0x1000).WellFormed { Params.p0 with tsWidth := 12 }
    ∧ (Instr.pwmedge false 0x0FFF).WellFormed { Params.p0 with tsWidth := 12 } := by decide

/-- 1024 is above ADC_BITS 10 (vectors D2v, D6v). -/
theorem test_wellFormed_adcdone :
    ¬ (Instr.adcdone 1024).WellFormed .p0 ∧ (Instr.adcdone 1023).WellFormed .p0 := by decide

/-- The words of ill-formed operations do not decode to them (vectors A10b, D2v). -/
theorem test_illFormed_words_are_reserved :
    decode { Params.p0 with tsWidth := 12 } 0x20001000 = .reserved .mustBeZeroBit
      ∧ decode .p0 0x30000400 = .reserved .mustBeZeroBit := by decide

/-! ### Decoding: one word of each operation, written bit by bit as OP, A, IMM (30_encoding.md R90, R93) -/

theorem test_decode_setfreq : decode .p0 0b00000001_00000000_0111010100110000 = .operation (.setfreq 30000) := by decide
theorem test_decode_setpwr : decode .p0 0b00000010_00000000_0000011111010000 = .operation (.setpwr 2000) := by decide
theorem test_decode_setrun : decode .p0 0b00000011_00000001_0000000000000111 = .operation (.setrun .timed 7) := by decide
theorem test_decode_setctl : decode .p0 0b00000100_00000001_0000000000000000 = .operation (.setctl .maxEfficiency) := by
  decide
theorem test_decode_setbind :
    decode .p0 0b00000101_00100010_0000000000000000 = .operation (.setbind .input2 .toggleControl false) := by decide
theorem test_decode_turnon : decode .p0 0b00000110_00000000_0000000000000000 = .operation .turnon := by decide
theorem test_decode_turnoff : decode .p0 0b00000111_00000000_0000000000000000 = .operation .turnoff := by decide
theorem test_decode_setestop : decode .p0 0b00001000_00000001_0000000000000000 = .operation (.setestop true) := by decide
theorem test_decode_setpos : decode .p0 0b00001001_00000000_0000000100101100 = .operation (.setpos 300) := by decide
theorem test_decode_readreg : decode .p0 0b00001010_00001010_0000000000000000 = .operation (.readreg 0xA) := by decide
theorem test_decode_tick : decode .p0 0b00010000_00000000_0000000000000000 = .operation .tick := by decide
theorem test_decode_pwmedge : decode .p0 0b00100000_00000001_0000000100001111 = .operation (.pwmedge true 271) := by decide
theorem test_decode_adcdone : decode .p0 0b00110000_00000000_0000001001100100 = .operation (.adcdone 612) := by decide
theorem test_decode_inedge : decode .p0 0b01000000_00010001_0000000000000000 = .operation (.inedge .input1 true) := by
  decide

/-- The classes of reserved words (vectors S12, I5; 30_encoding.md R96). -/
theorem test_decode_reserved : decode .p0 0x06000001 = .reserved .mustBeZeroBit
    ∧ decode .p0 0x0B000000 = .reserved .unlistedOpcode ∧ decode .p0 0xFF000000 = .reserved .customSpace
    ∧ decode .p0 0x05310000 = .reserved .inputId ∧ decode .p0 0x40010000 = .reserved .inputId := by decide

/-- The words of the vectors, from the encoder (30_encoding.md R98). -/
theorem test_encode : encode (.setbind .input1 .emergencyStop true) = 0x05170000
    ∧ encode (.inedge .input2 false) = 0x40200000 ∧ encode (.pwmedge true 842) = 0x2001034A
    ∧ encode (.setrun .timed 3) = 0x03010003 ∧ encode (.readreg 0xB) = 0x0A0B0000 := by decide

/-- A table row's word through the transport's bytes (20_memory.md R62). -/
theorem test_decodeTableWord : decodeTableWord 32 0x01006D60 = some (.setfreq 28000)
    ∧ decodeTableWord 32 0x00000000 = none ∧ wordOfBytes [0x60, 0x6D, 0x00, 0x01] = some 0x01006D60
    ∧ wordOfBytes [0x60, 0x6D, 0x00] = none := by decide

/-! ### Single steps -/

/-- The next state of an outcome. -/
def stateOf : Result → Option State
  | .next t => some t
  | .fault _ => none
  | .refused _ => none

/-- What a view shows after one word from the host. -/
def shows {α : Type} (view : State → α) (w : OpWord) (s : State) : Option α := (stateOf (performWord .host w s)).map view

/-- The last response given. -/
def lastResponse (s : State) : Option (ResponseCode × Half) := s.responses.getLast?.map (fun r => (r.code, r.data))

/-- RST0 with EStop left: Idle. -/
def idle : State := { State.reset with st := { State.reset.st with isEmergencyStopped := false } }

/-- The start state EN of 95_test_vectors.md section 1, at a position. -/
def enabledAt (pos : BitVec 8) : State :=
  { idle with st := { idle.st with isOutputEnabled := true, actuatorPosition := pos } }

/-- EN in a Timed run with this many ticks left. -/
def timedWith (ticks : Half) : State :=
  { enabledAt 0 with
    cfg := { idle.cfg with runMode := .timed, runTimerTicks := 3 }
    st := { (enabledAt 0).st with runCountdownTicks := ticks } }

/-- Idle with one input bound. -/
def boundTo (action : InputAction) (announce : Bool) (s : State) : State :=
  { s with cfg := { s.cfg with input1 := ⟨action, announce⟩ } }

/-- RST0 waiting for the first rising edge, tFall 100 (after vector A1). -/
def afterFall : State :=
  { State.reset with pwm := { State.reset.pwm with phase := .waitRise1, tFall := 100 } }

/-- RST0 waiting for the second rising edge of vector A2. -/
def afterRise : State :=
  { State.reset with pwm := { State.reset.pwm with phase := .waitRise2, tFall := 100, tRise1 := 271 } }

/-- RST0 with the window of vector T2 gathered: one cycle of 400 in 571, one conversion of 612. -/
def gathered (s : State) : State :=
  { s with
    pwm := { s.pwm with onSum := 400, periodSum := 571, count := 1 }
    adc := { s.adc with sum := 612, count := 1 } }

/-- Vector S7. -/
theorem test_setfreq_range : shows lastResponse 0x01004E1F .reset = some (some (.errRange, 0))
    ∧ shows lastResponse 0x01009C41 .reset = some (some (.errRange, 0))
    ∧ shows (·.cfg.frequencyHz) 0x01009C40 .reset = some 40000 := by decide

/-- Vector S8: the write goes out each time. -/
theorem test_setfreq_event :
    shows (·.log.getLast?) 0x01006D60 .reset = some (some (.genFreqWrite 28000)) := by decide

/-- Vector S9. -/
theorem test_setpwr : shows lastResponse 0x02001389 .reset = some (some (.errRange, 0))
    ∧ shows (·.cfg.powerDeciWatts) 0x02001388 .reset = some 5000 := by decide

/-- Vector S10. -/
theorem test_setrun : shows lastResponse 0x03010000 .reset = some (some (.errRange, 0))
    ∧ shows (fun t => (t.cfg.runMode, t.cfg.runTimerTicks)) 0x0301FFFF .reset = some (.timed, 65535)
    ∧ shows (fun t => (t.cfg.runMode, t.cfg.runTimerTicks)) 0x03000005 (timedWith 1) = some (.continuous, 3) := by decide

/-- Vector S11. -/
theorem test_setctl : shows (fun t => regRead t 0x3) 0x04010000 .reset = some 2 := by decide

/-- Vectors I3, I2, I4: register 4 after each binding. -/
theorem test_setbind : shows (fun t => regRead t 0x4) 0x05170000 .reset = some 7
    ∧ shows (fun t => regRead t 0x4) 0x05220000 .reset = some 0x20
    ∧ shows (fun t => regRead t 0x4) 0x05240000 .reset = some 0x40 := by decide

/-- Vectors S1, S2. -/
theorem test_turnon : shows lastResponse 0x06000000 .reset = some (some (.errEstop, 0))
    ∧ shows (fun t => (regRead t 0xB, t.log.getLast?)) 0x06000000 idle = some (1, some (.genOn ⟨0⟩ 28000)) := by decide

/-- A timed run loads its countdown (43_state_machine.md R160; Program 2, word 3). -/
theorem test_turnon_timed : shows (·.st.runCountdownTicks) 0x06000000
    { idle with cfg := { idle.cfg with runMode := .timed, runTimerTicks := 3 } } = some 3 := by decide

/-- Vectors C5, S5. -/
theorem test_turnoff : shows (fun t => (t.st.runCountdownTicks, regRead t 0xB)) 0x07000000 (timedWith 7) = some (0, 0)
    ∧ shows (·.log.length) 0x07000000 .reset = some 4 := by decide

/-- Vectors S4, S6. -/
theorem test_setestop : shows (fun t => (t.st.runCountdownTicks, regRead t 0xB)) 0x08010000 (timedWith 6) = some (0, 2)
    ∧ shows (fun t => (regRead t 0xB, t.log.length)) 0x08000000 (enabledAt 0) = some (1, 3) := by decide

/-- Vectors X1, X4. -/
theorem test_setpos : shows (fun t => (t.st.actuatorPosition, t.log.getLast?)) 0x0900012C .reset
      = some (100, some (.potWrite 100))
    ∧ shows (·.st.actuatorPosition) 0x09000064 .reset = some 100 := by decide

/-- Vector X2. -/
theorem test_setpos_disabled : shows lastResponse 0x09000005
    { State.reset with params := { Params.p0 with hasDebugSetpos := false } } = some (some (.errDisabled, 0)) := by decide

/-- Vectors RB1, RB2. -/
theorem test_readreg : shows lastResponse 0x0A000000 .reset = some (some (.ok, 28000))
    ∧ shows lastResponse 0x0A0B0000 .reset = some (some (.ok, 2))
    ∧ shows lastResponse 0x0A0C0000 .reset = some (some (.ok, 0))
    ∧ shows lastResponse 0x0A100000 .reset = some (some (.errReserved, 0)) := by decide

/-- Vectors T2, G1: the reduction of the window, then one increment. -/
theorem test_tick_reduces : shows (fun t => (regRead t 0x5, regRead t 0x6, regRead t 0x7, regRead t 0x8)) 0x10000000
      (gathered .reset) = some (28021, 700, 100, 1680)
    ∧ shows (·.st.actuatorPosition) 0x10000000
      (gathered { enabledAt 0 with cfg := { idle.cfg with powerDeciWatts := 2000 } }) = some 1 := by decide

/-- Vector C1: two ticks left, then one. -/
theorem test_tick_counts : shows (fun t => (t.st.runCountdownTicks, regRead t 0xB)) 0x10000000 (timedWith 2) = some (1, 1)
    ∧ shows (fun t => (t.st.runCountdownTicks, regRead t 0xB, t.log.getLast?)) 0x10000000 (timedWith 1)
      = some (0, 0, some .genOff) := by decide

/-- Vectors A1, A3. -/
theorem test_pwmedge_phases : shows (fun t => (t.pwm.phase, t.pwm.tFall)) 0x20000064 .reset = some (.waitRise1, 100)
    ∧ shows (·.pwm) 0x20010032 .reset = some State.reset.pwm := by decide

/-- Vectors A2, A10. -/
theorem test_pwmedge_cycle : shows (fun t => (t.pwm.onSum, t.pwm.periodSum, t.pwm.count)) 0x2001034A afterRise
      = some (400, 571, 1)
    ∧ shows lastResponse 0x20020000 .reset = some (some (.errReserved, 0)) := by decide

/-- Vectors D1v, D2v. -/
theorem test_adcdone : shows (fun t => (t.adc.sum, t.adc.count, t.log.getLast?)) 0x30000264 .reset
      = some (612, 1, some .adcRestart)
    ∧ shows (fun t => (t.adc, lastResponse t)) 0x30000400 .reset = some (State.reset.adc, some (.errReserved, 0)) := by
  decide

/-- Vectors I3, I1. -/
theorem test_inedge : shows (fun t => (regRead t 0xB, t.log.drop 3)) 0x40110000 (boundTo .emergencyStop true (enabledAt 0))
      = some (2, [.genOff, .announce .input1 true])
    ∧ shows (fun t => (regRead t 0xB, t.log.drop 3)) 0x40110000 (boundTo .momentaryControl false idle)
      = some (1, [.genOn ⟨0⟩ 28000]) := by decide

/-- Vector I6 for input 1: TurnOn is refused inside INEDGE, and the answer is OK. -/
theorem test_inedge_refused : shows (fun t => (t.log.length, lastResponse t)) 0x40110000 (boundTo .toggleControl false .reset)
    = some (3, some (.ok, 0)) := by decide

/-- Reset, 70_reset_and_hazards.md R261 (RST0). -/
theorem test_reset : stateOf (perform .reset (gathered (enabledAt 10))) = some State.reset := by decide

/-- One step performs the word that withFetchWord submits. -/
theorem test_step : (stateOf (step (State.reset.withFetchWord 32 0x02001388))).map (·.cfg.powerDeciWatts)
    = some 5000 := by decide

/-! ### Witnesses: for each statement with hypotheses, states and operands that meet them, clause by clause -/

/-- An Inv-state away from reset: enabled at step 10, in a Timed run, mid-cycle, with a window gathered. -/
def busy : State :=
  { gathered (timedWith 2) with
    st := { (timedWith 2).st with actuatorPosition := 10, measuredDutyCycleDeciPercent := 1000 }
    pwm := { (gathered (timedWith 2)).pwm with phase := .waitRise2, tFall := 0xFFFF, tRise1 := 271 } }

theorem busy_inv : busy.Inv := by
  constructor <;> decide

/-- An instance with decimation by 3 and 12-bit timestamps. -/
def decimating : Params := { Params.p0 with tsWidth := 12, pwmDecim := 3, adcDecim := 3 }

/-- Its state with both decimation counters one short of 3. -/
def lastSkip : State :=
  { State.reset with params := decimating, pwm := { State.reset.pwm with skip := 2 }, adc := { State.reset.adc with skip := 2 } }

/-- A tick always goes through. -/
theorem tick_next (s : State) : ∃ t, exec .tick s = .next t := ⟨_, rfl⟩

theorem witness_DecodeOfEncode : (Instr.pwmedge true 0x0FFF).WellFormed decimating ∧ (Instr.adcdone 1023).WellFormed .p0
    ∧ (Instr.setrun .continuous 65535).WellFormed .p0 := by decide

theorem witness_EncodeOfDecode : decode decimating 0x20010FFF = .operation (.pwmedge true 0x0FFF) := by decide

/-- A reserved word at a boundary of each class: OP 0x0B and 0xF0, a mode field of 2, an index of 16, a timestamp of 2^12
under TS_WIDTH 12, the ids 0 and 3. -/
theorem witness_ReservedWords : decode .p0 0x0B000000 = .reserved .unlistedOpcode
    ∧ decode .p0 0xF0000000 = .reserved .customSpace ∧ decode .p0 0x03020000 = .reserved .mustBeZeroBit
    ∧ decode .p0 0x0A100000 = .reserved .mustBeZeroBit ∧ decode decimating 0x20001000 = .reserved .mustBeZeroBit
    ∧ decode .p0 0x05000000 = .reserved .inputId ∧ decode .p0 0x40300000 = .reserved .inputId := by decide

theorem witness_SetfreqRule :
    (State.reset.params.minFreq ≤ (20000 : Half).toNat ∧ (20000 : Half).toNat ≤ State.reset.params.maxFreq)
    ∧ (State.reset.params.minFreq ≤ (40000 : Half).toNat ∧ (40000 : Half).toNat ≤ State.reset.params.maxFreq)
    ∧ (19999 : Half).toNat < State.reset.params.minFreq ∧ State.reset.params.maxFreq < (40001 : Half).toNat
    ∧ (0x01016D60 : OpWord).extractLsb' 24 8 = 0x01 ∧ (0x01006D60 : OpWord).extractLsb' 24 8 = 0x01 := by decide

theorem witness_SetpwrRule : (5000 : Half).toNat ≤ State.reset.params.maxPower
    ∧ State.reset.params.maxPower < (5001 : Half).toNat ∧ (0x02001388 : OpWord).extractLsb' 24 8 = 0x02 := by decide

theorem witness_SetrunRule :
    (State.reset.params.runTicksMin ≤ (1 : Half).toNat ∧ (1 : Half).toNat ≤ State.reset.params.runTicksMax)
    ∧ (State.reset.params.runTicksMin ≤ (65535 : Half).toNat ∧ (65535 : Half).toNat ≤ State.reset.params.runTicksMax)
    ∧ (0 : Half).toNat < State.reset.params.runTicksMin
    ∧ ({ State.reset with params := { Params.p0 with runTicksMax := 99 } } : State).params.runTicksMax < (100 : Half).toNat
    ∧ (0x03010003 : OpWord).extractLsb' 24 8 = 0x03 := by decide

theorem witness_SetctlRule : (0x04010000 : OpWord).extractLsb' 24 8 = 0x04 := by decide

theorem witness_SetfreqTwice :
    State.reset.params.minFreq ≤ (28000 : Half).toNat ∧ (28000 : Half).toNat ≤ State.reset.params.maxFreq := by decide

theorem witness_SetbindRule : (0x05170000 : OpWord).extractLsb' 24 8 = 0x05
    ∧ ((0x05170000 : OpWord).extractLsb' 16 2).toNat = numberOfAction .emergencyStop
    ∧ ((0x05310000 : OpWord).extractLsb' 16 2).toNat = numberOfAction .momentaryControl := by decide

/-- One state for each action of INEDGE's binding; in each, input 2 is bound to Unused. -/
theorem witness_InedgeRule : idle.cfg.input1 = ⟨.unused, false⟩
    ∧ (boundTo .momentaryControl true idle).cfg.input1 = ⟨.momentaryControl, true⟩
    ∧ (boundTo .toggleControl false (enabledAt 0)).cfg.input1 = ⟨.toggleControl, false⟩
    ∧ (boundTo .emergencyStop true (enabledAt 0)).cfg.input1 = ⟨.emergencyStop, true⟩
    ∧ (boundTo .emergencyStop true (enabledAt 0)).cfg.input2 = ⟨.unused, false⟩
    ∧ (0x40110000 : OpWord).extractLsb' 24 8 = 0x40 := by decide

theorem witness_TurnonRule :
    (idle.st.isEmergencyStopped = false ∧ idle.st.isOutputEnabled = false)
    ∧ ((enabledAt 0).st.isEmergencyStopped = false ∧ (enabledAt 0).st.isOutputEnabled = true)
    ∧ State.reset.st.isEmergencyStopped = true ∧ (0x06000001 : OpWord).extractLsb' 24 8 = 0x06 := by decide

theorem witness_TurnoffRule : (0x07000000 : OpWord).extractLsb' 24 8 = 0x07 := by decide

theorem witness_SetestopRule : (0x08010000 : OpWord).extractLsb' 24 8 = 0x08 := by decide

/-- One state for each row of the transition table, Timed with 1, 2 and 0 ticks left. -/
theorem witness_TransitionTable :
    (opState .reset = .eStopped ∧ State.reset.st.isOutputEnabled = false)
    ∧ (opState idle = .idle ∧ idle.st.isEmergencyStopped = false)
    ∧ (opState (enabledAt 0) = .running .continuous ∧ (enabledAt 0).st.isEmergencyStopped = false)
    ∧ (opState (timedWith 2) = .running .timed ∧ 1 < (timedWith 2).st.runCountdownTicks.toNat)
    ∧ (opState (timedWith 1) = .running .timed ∧ (timedWith 1).st.runCountdownTicks.toNat ≤ 1)
    ∧ (opState (timedWith 0) = .running .timed ∧ (timedWith 0).st.runCountdownTicks.toNat ≤ 1) := by decide

/-- TURNON, a Momentary and a Toggle input, each from Idle. -/
theorem witness_OutputEnabledOnlyByTurnOn :
    (∃ t, exec .turnon idle = .next t ∧ idle.st.isOutputEnabled = false ∧ t.st.isOutputEnabled = true)
    ∧ (∃ t, exec (.inedge .input1 true) (boundTo .momentaryControl false idle) = .next t ∧ t.st.isOutputEnabled = true)
    ∧ (∃ t, exec (.inedge .input1 true) (boundTo .toggleControl true idle) = .next t ∧ t.st.isOutputEnabled = true) :=
  ⟨⟨_, rfl, by decide⟩, ⟨_, rfl, by decide⟩, ⟨_, rfl, by decide⟩⟩

theorem witness_EstopEnteredAndLeft :
    (∃ t, exec (.setestop true) idle = .next t ∧ idle.st.isEmergencyStopped = false ∧ t.st.isEmergencyStopped = true)
    ∧ (∃ t, exec (.inedge .input1 true) (boundTo .emergencyStop false idle) = .next t ∧ t.st.isEmergencyStopped = true)
    ∧ (∃ t, exec (.setestop false) .reset = .next t ∧ State.reset.st.isEmergencyStopped = true
      ∧ t.st.isEmergencyStopped = false) :=
  ⟨⟨_, rfl, by decide⟩, ⟨_, rfl, by decide⟩, ⟨_, rfl, by decide⟩⟩

/-- A list with TURNON, a TICK, an assertion edge and a reset, and no SETESTOP 0. -/
theorem witness_EstopDominates : ∀ b : Agent, Stimulus.operation b 0x08000000 ∉
    [Stimulus.operation .host 0x06000000, .operation .scheduler 0x10000000, .operation .debouncer 0x40110000, .reset] := by
  intro b
  cases b <;> decide

theorem witness_SetposRule : (State.reset.params.hasDebugSetpos = true ∧ State.reset.params.maxStep ≤ 255)
    ∧ ({ State.reset with params := { Params.p0 with hasDebugSetpos := false } } : State).params.hasDebugSetpos = false
    ∧ (0x0900012C : OpWord).extractLsb' 24 8 = 0x09 := by decide

theorem witness_ReadregRule : (0x0A0F0000 : OpWord).extractLsb' 24 8 = 0x0A := by decide

/-- Each phase with each edge: WAIT_FALL rising, falling as the last of 3, falling before it; the mid-cycle falling edge;
the two rising edges; the timestamps at both ends of 12 bits. -/
theorem witness_PwmedgeRule : (0x0FFF : Half).toNat < 2 ^ decimating.tsWidth ∧ (0 : Half).toNat < 2 ^ decimating.tsWidth
    ∧ lastSkip.params = decimating
    ∧ (lastSkip.pwm.phase = .waitFall ∧ lastSkip.pwm.skip.toNat + 1 = lastSkip.params.pwmDecim)
    ∧ (let s : State := { State.reset with params := decimating }
       s.pwm.phase = .waitFall ∧ s.pwm.skip.toNat + 1 ≠ s.params.pwmDecim)
    ∧ afterFall.pwm.phase ≠ .waitFall ∧ afterFall.pwm.phase = .waitRise1 ∧ afterRise.pwm.phase = .waitRise2
    ∧ (842 : Half).toNat < 2 ^ afterRise.params.tsWidth ∧ (0x20010FFF : OpWord).extractLsb' 24 8 = 0x20 := by decide

theorem witness_AdcdoneRule : (1023 : Half).toNat < 2 ^ lastSkip.params.adcBits
    ∧ lastSkip.adc.skip.toNat + 1 = lastSkip.params.adcDecim
    ∧ (let s : State := { State.reset with params := decimating }
       (0 : Half).toNat < 2 ^ s.params.adcBits ∧ s.adc.skip.toNat + 1 ≠ s.params.adcDecim)
    ∧ (0x300003FF : OpWord).extractLsb' 24 8 = 0x30 := by decide

theorem witness_AdcDecimationOverAWindow :
    (lastSkip.params.Legal ∧ lastSkip.adc.skip.toNat < lastSkip.params.adcDecim
      ∧ ∀ v ∈ ([100, 200, 300, 1023] : List Half), v.toNat < 2 ^ lastSkip.params.adcBits)
    ∧ State.reset.params.Legal ∧ State.reset.adc.skip.toNat < State.reset.params.adcDecim
      ∧ State.reset.params.adcDecim = 1 :=
  ⟨⟨by decide, by decide, by simp [lastSkip, decimating, Params.p0]⟩, by decide, by decide, by decide⟩

theorem witness_PwmCycleCountsOne :
    lastSkip.pwm.phase = .waitFall ∧ lastSkip.pwm.skip.toNat + 1 = lastSkip.params.pwmDecim
    ∧ (0x0FFF : Half).toNat < 2 ^ lastSkip.params.tsWidth ∧ (100 : Half).toNat < 2 ^ lastSkip.params.tsWidth
    ∧ (671 : Half).toNat < 2 ^ lastSkip.params.tsWidth := by decide

/-- A tick that regulates: enabled, ConstantFrequency, at both ends of the position's range. -/
theorem witness_TickRegulates :
    ((∃ t, exec .tick (gathered (enabledAt 100)) = .next t) ∧ (gathered (enabledAt 100)).params.maxStep ≤ 255
      ∧ (gathered (enabledAt 100)).st.actuatorPosition.toNat ≤ (gathered (enabledAt 100)).params.maxStep)
    ∧ (∃ t, exec .tick (enabledAt 0) = .next t)
      ∧ (enabledAt 0).st.actuatorPosition.toNat ≤ (enabledAt 0).params.maxStep :=
  ⟨⟨tick_next _, by decide, by decide⟩, tick_next _, by decide⟩

/-- Timed with 2, 1 and 0 ticks left; disabled; Continuous. -/
theorem witness_TickCountsDown :
    ((timedWith 2).st.isOutputEnabled = true ∧ (timedWith 2).cfg.runMode = .timed)
    ∧ ((timedWith 1).st.isOutputEnabled = true ∧ (timedWith 1).cfg.runMode = .timed)
    ∧ ((timedWith 0).st.isOutputEnabled = true ∧ (timedWith 0).cfg.runMode = .timed)
    ∧ idle.st.isOutputEnabled = false ∧ (enabledAt 0).cfg.runMode = .continuous
    ∧ (∃ t, exec .tick (timedWith 0) = .next t) ∧ ∃ t, exec .tick idle = .next t :=
  ⟨by decide, by decide, by decide, by decide, by decide, tick_next _, tick_next _⟩

theorem witness_TickFrame : (∃ t, exec .tick busy = .next t) ∧ busy.params.maxStep ≤ 255
    ∧ (0x10000001 : OpWord).extractLsb' 24 8 = 0x10 := ⟨tick_next _, by decide, by decide⟩

theorem witness_ReducerFitsFiftyBits : busy.Inv := busy_inv

/-- Idle, to run Timed for this many ticks. -/
def timedIdle (ticks : Half) : State := { idle with cfg := { idle.cfg with runMode := .timed, runTimerTicks := ticks } }

/-- Runs of 3 ticks and of the shortest length, 1. -/
theorem witness_TimedRunLastsItsTicks :
    ((timedIdle 3).st.isEmergencyStopped = false ∧ (timedIdle 3).st.isOutputEnabled = false
      ∧ (timedIdle 3).cfg.runMode = .timed ∧ 1 ≤ (timedIdle 3).cfg.runTimerTicks.toNat)
    ∧ (timedIdle 1).st.isEmergencyStopped = false ∧ (timedIdle 1).st.isOutputEnabled = false
      ∧ (timedIdle 1).cfg.runMode = .timed ∧ 1 ≤ (timedIdle 1).cfg.runTimerTicks.toNat := by decide

theorem witness_PositionMovesOneStepPerTick : (enabledAt 100).params.maxStep ≤ 255
    ∧ (enabledAt 100).st.actuatorPosition.toNat ≤ (enabledAt 100).params.maxStep := by decide

theorem witness_NoSignalClimbsToMaxStep :
    let s : State := { enabledAt 98 with cfg := { idle.cfg with powerDeciWatts := 1 } }
    s.params.maxStep ≤ 255 ∧ s.st.actuatorPosition.toNat ≤ s.params.maxStep ∧ s.st.isOutputEnabled = true
      ∧ s.cfg.runMode = .continuous ∧ s.cfg.controlMode = .constantFrequency ∧ 0 < s.cfg.powerDeciWatts.toNat
      ∧ s.pwm.count = 0 ∧ s.adc.count = 0 := by decide

/-- Two machines that differ in configuration, status and accumulators. -/
theorem witness_WindowsAreIndependent :
    let s1 : State := gathered (enabledAt 10)
    s1.params = State.reset.params ∧ s1.pwm.phase = State.reset.pwm.phase ∧ s1.pwm.skip = State.reset.pwm.skip
      ∧ s1.pwm.tFall = State.reset.pwm.tFall ∧ s1.pwm.tRise1 = State.reset.pwm.tRise1
      ∧ s1.adc.skip = State.reset.adc.skip ∧ s1 ≠ State.reset := by decide

theorem witness_AccumulatorsAreHidden : Instr.adcdone 612 ≠ .tick ∧ SameVisible (gathered idle) idle
    ∧ gathered idle ≠ idle := ⟨by decide, rfl, by decide⟩

/-- A write to each field of the configuration. -/
theorem witness_ConfigurationWriters :
    shows (·.cfg.frequencyHz) 0x01007530 .reset = some 30000 ∧ shows (·.cfg.powerDeciWatts) 0x02000001 .reset = some 1
    ∧ shows (·.cfg.runMode) 0x03010003 .reset = some .timed ∧ shows (·.cfg.runTimerTicks) 0x03010003 .reset = some 3
    ∧ shows (·.cfg.controlMode) 0x04010000 .reset = some .maxEfficiency
    ∧ shows (·.cfg.input1) 0x05170000 .reset = some ⟨.emergencyStop, true⟩
    ∧ shows (·.cfg.input2) 0x05220000 .reset = some ⟨.toggleControl, false⟩
    ∧ ∃ t, exec (.setfreq 30000) .reset = .next t :=
  ⟨by decide, by decide, by decide, by decide, by decide, by decide, by decide, ⟨_, rfl⟩⟩

/-- A position moved by SETPOS and by TICK, a countdown moved, and an operation other than TICK. -/
theorem witness_StatusWriters :
    (∃ t, exec (.setpos 5) idle = .next t ∧ Instr.setpos 5 ≠ .tick ∧ t.st.actuatorPosition ≠ idle.st.actuatorPosition)
    ∧ (∃ t, exec .tick busy = .next t ∧ t.st.actuatorPosition ≠ busy.st.actuatorPosition
      ∧ t.st.runCountdownTicks ≠ busy.st.runCountdownTicks) := ⟨⟨_, rfl, by decide⟩, ⟨_, rfl, by decide⟩⟩

theorem witness_AccumulatorWriters :
    (∃ t, exec (.pwmedge true 842) afterRise = .next t ∧ t.pwm ≠ afterRise.pwm)
    ∧ (∃ t, exec (.adcdone 612) idle = .next t ∧ t.adc ≠ idle.adc)
    ∧ ∃ t, exec .tick busy = .next t ∧ t.pwm ≠ busy.pwm ∧ t.adc ≠ busy.adc :=
  ⟨⟨_, rfl, by decide⟩, ⟨_, rfl, by decide⟩, ⟨_, rfl, by decide⟩⟩

/-- Every kind of event occurs. -/
theorem witness_LogIsAppendOnly :
    shows (·.log.drop 3) 0x0900000A idle = some [.potWrite 10]
    ∧ shows (·.log.drop 3) 0x01006D60 idle = some [.genFreqWrite 28000]
    ∧ shows (·.log.drop 3) 0x06000000 idle = some [.genOn ⟨0⟩ 28000]
    ∧ shows (·.log.drop 3) 0x30000000 idle = some [.adcRestart]
    ∧ shows (·.log.drop 3) 0x40110000 (boundTo .emergencyStop true idle) = some [.genOff, .announce .input1 true]
    ∧ ∃ t, exec (.setpos 10) idle = .next t :=
  ⟨by decide, by decide, by decide, by decide, by decide, ⟨_, rfl⟩⟩

theorem witness_StepRunsTheDecodedOperation :
    let s : State := { idle with inbox := [.operation .scheduler 0x10000000, .reset] }
    s.params.Legal ∧ s.inbox = .operation .scheduler 0x10000000 :: [.reset]
      ∧ decode s.params 0x10000000 = .operation .tick ∧ Instr.tick.WellFormed s.params := by decide

theorem witness_StepHoldsOrRefuses : (idle.params.Legal ∧ idle.inbox = [])
    ∧ ¬ ({ idle with params := { Params.p0 with minFreq := 40001 } } : State).params.Legal :=
  ⟨⟨by decide, rfl⟩, by decide⟩

theorem witness_StimuliArePerformedInArrivalOrder : lastSkip.params.Legal := by decide

theorem witness_ResetMeetsTheInvariant : decimating.Legal := by decide

/-- An operation, a reset, and nothing to perform, from a state that meets the invariant. -/
theorem witness_StepKeepsTheInvariant : busy.Inv ∧ (∃ t, step busy = .next t)
    ∧ (∃ s : State, s.Inv ∧ s.inbox = [.operation .scheduler 0x10000000] ∧ ∃ t, step s = .next t)
    ∧ (∃ s : State, s.Inv ∧ s.inbox = [.reset] ∧ ∃ t, step s = .next t) :=
  ⟨busy_inv, ⟨_, rfl⟩,
    ⟨{ busy with inbox := [.operation .scheduler 0x10000000] }, by constructor <;> decide, rfl, ⟨_, rfl⟩⟩,
    ⟨{ busy with inbox := [.reset] }, by constructor <;> decide, rfl, ⟨_, rfl⟩⟩⟩

theorem witness_StepKeepsTheParameters : ∃ t, step (lastSkip.withFetchWord 32 0x30000064) = .next t := ⟨_, rfl⟩

theorem witness_PseudoInstructionsExpand : registerName? "ST_FLAGS" = some 0xB ∧ registerName? "CFG_FREQ" = some 0x0 := by
  decide

end Sys2Proof.Tests
end

section
/-! SUPPORT. Performing a word that decodes to an operation, and one that is reserved: what the word clauses of the
statements need of `performWord`. -/

namespace Sys2Proof.Machine

/-- A word that decodes to an operation is that operation, submitted by the agent. -/
theorem performWord_operation {a : Agent} {w : OpWord} {s : State} {i : Instr} (h : decode s.params w = .operation i) :
    performWord a w s = exec i (submittedBy a s) := by
  simp only [performWord, h, submittedBy]

/-- A reserved word is answered ERR_RESERVED, whatever its class (60_exceptions.md R221). -/
theorem performWord_reserved {a : Agent} {w : OpWord} {s : State} {cause : ReservedCause}
    (h : decode s.params w = .reserved cause) : performWord a w s = reservedOutcome a s := by
  simp only [performWord, h, reject_eq, reservedOutcome, submittedBy]

end Sys2Proof.Machine
end

section
/-! SUPPORT. The readback space (20_memory.md R60, R61): the three packed locations as numbers (10_state.md R54), the
words of READREG, and the getter's rule. -/

namespace Sys2Proof.Machine

/-! ### The packed locations as sums of their fields (10_state.md R54) -/

/-- Joining two fields weighs the high one by the low one's width. -/
theorem toNat_append_eq_add {m n : Nat} (hi : BitVec m) (lo : BitVec n) :
    (hi ++ lo).toNat = hi.toNat * 2 ^ n + lo.toNat := by
  rw [BitVec.toNat_append, ← Nat.shiftLeft_add_eq_or_of_lt lo.isLt, Nat.shiftLeft_eq]

/-! The codes the readback words are joined from, as numbers. -/

theorem toNat_ofBool_eq_numberOfFlag (b : Bool) : (BitVec.ofBool b).toNat = numberOfFlag b := by cases b <;> rfl

theorem toNat_runModeCode (m : RunMode) : m.code.toNat = numberOfFlag (m = .timed) := by cases m <;> rfl

theorem toNat_controlModeCode (m : ControlMode) : m.code.toNat = numberOfFlag (m = .maxEfficiency) := by
  cases m <;> rfl

theorem toNat_inputActionCode (a : InputAction) : a.code.toNat = numberOfAction a := by cases a <;> rfl

/-- CFG_MODE has the run mode at bit 0 and the control mode at bit 1. -/
theorem cfgModeWord_eq (c : RequestedConfig) :
    cfgModeWord c = BitVec.ofNat 16 (numberOfFlag (c.runMode = .timed)
      + 2 * numberOfFlag (c.controlMode = .maxEfficiency)) := by
  rw [cfgModeWord, ← BitVec.ofNat_toNat, toNat_append_eq_add, toNat_runModeCode, toNat_controlModeCode]
  congr 1
  omega

/-- CFG_INPUTS has input 1's action at bit 0 and announce flag at bit 2, and input 2's at bits 4 and 6. -/
theorem cfgInputsWord_eq (c : RequestedConfig) :
    cfgInputsWord c = BitVec.ofNat 16 (numberOfAction c.input1.action + 4 * numberOfFlag c.input1.announce
      + 16 * numberOfAction c.input2.action + 64 * numberOfFlag c.input2.announce) := by
  rw [cfgInputsWord, ← BitVec.ofNat_toNat]
  simp only [toNat_append_eq_add, toNat_ofBool_eq_numberOfFlag, toNat_inputActionCode]
  congr 1
  simp only [BitVec.ofNat_eq_ofNat, BitVec.toNat_ofNat]
  omega

/-- ST_FLAGS has the output flag at bit 0 and the emergency stop at bit 1. -/
theorem stFlagsWord_eq (st : LiveStatus) :
    stFlagsWord st = BitVec.ofNat 16 (numberOfFlag st.isOutputEnabled + 2 * numberOfFlag st.isEmergencyStopped) := by
  rw [stFlagsWord, ← BitVec.ofNat_toNat, toNat_append_eq_add, toNat_ofBool_eq_numberOfFlag,
    toNat_ofBool_eq_numberOfFlag]
  congr 1
  omega

/-! ### READREG -/

/-- READREG answers what the location reads as, and has no other effect (20_memory.md R65). -/
theorem exec_readreg (idx : BitVec 4) (s : State) : exec (.readreg idx) s = .next (answered .ok (regRead s idx) s) :=
  rfl

/-- A field of a field is a field of the word. -/
theorem extractLsb'_extractLsb' {width lo len start sub : Nat} (x : BitVec width) (h : start + sub ≤ len) :
    (x.extractLsb' lo len).extractLsb' start sub = x.extractLsb' (lo + start) sub := by
  apply BitVec.eq_of_getLsbD_eq
  intro i hi
  simp only [BitVec.getLsbD_extractLsb', hi, show start + i < len by omega, Nat.add_assoc]
  simp

/-- A byte's high four bits are masked to zero exactly when the field they make is zero. -/
theorem and_highNibble_eq_zero_iff (x : Byte) : x &&& 240#8 = 0#8 ↔ x.extractLsb' 4 4 = 0 := by
  revert x
  decide

/-- A word of OP 0x0A is READREG of w[19:16] when w[23:20] and w[15:0] are zero, and reserved otherwise
(30_encoding.md R93). -/
theorem decode_readreg (p : Params) {w : OpWord} (hop : w.extractLsb' 24 8 = 0x0A) :
    decode p w = if w.extractLsb' 20 4 = 0 ∧ w.extractLsb' 0 16 = 0 then .operation (.readreg (w.extractLsb' 16 4))
      else .reserved (unselectedCause w) := by
  have hA : w.extractLsb' 16 8 &&& 240#8 = 0#8 ↔ w.extractLsb' 20 4 = 0 := by
    rw [and_highNibble_eq_zero_iff, extractLsb'_extractLsb' w (by omega)]
  rw [decode_eq_fields]
  simp [hop, hA]

/-- Settles O22: each location reads as `regRead` gives it, the packed ones rewritten as sums of their fields, and
`decode_readreg` says which words are refused. -/
theorem readregRule : Obligations.ReadregRule := by
  unfold Obligations.ReadregRule
  refine ⟨fun s => ?_, fun a w s hop => ?_⟩
  · simp only [exec_readreg, ← cfgModeWord_eq, ← cfgInputsWord_eq, ← stFlagsWord_eq, BitVec.ofNat_toNat]
    exact ⟨rfl, rfl, rfl, rfl, rfl, rfl, rfl, rfl, rfl, rfl, rfl, rfl, rfl, rfl, rfl, rfl⟩
  · have hd := decode_readreg s.params hop
    split
    · next h => exact performWord_reserved (hd.trans (if_neg (not_and_or.mpr h)))
    · next h => exact performWord_operation (hd.trans (if_pos (by simpa using h)))

end Sys2Proof.Machine
end

section
/-! SUPPORT. Which words the decoder refuses, row by row of the opcode map, as bounds on the numbers of the three fields
(30_encoding.md R93, R96). -/

namespace Sys2Proof

/-! ### Being reserved, whatever the class -/

/-- The outcome is RESERVED, of any class (30_encoding.md R96). -/
def Decoded.IsReserved (d : Decoded) : Prop := ∃ cause, d = .reserved cause

@[simp] theorem not_isReserved_operation (i : Instr) : ¬ (Decoded.operation i).IsReserved := by
  simp [Decoded.IsReserved]

@[simp] theorem isReserved_reserved (cause : ReservedCause) : (Decoded.reserved cause).IsReserved := ⟨cause, rfl⟩

@[simp] theorem isReserved_ite (c : Prop) [Decidable c] (d e : Decoded) :
    (if c then d else e).IsReserved ↔ (c → d.IsReserved) ∧ (¬ c → e.IsReserved) := by
  split <;> simp [*]

/-! ### The must-be-zero bits and the id as numbers of their fields (30_encoding.md R93) -/

/-- A field has a bit set exactly when its number is not 0. -/
theorem toNat_ne_zero_iff {n : Nat} (x : BitVec n) : x.toNat ≠ 0 ↔ x ≠ 0 := by
  simp [BitVec.toNat_eq]

/-- Outside the one-bit field at A's bit 0 a bit is set. -/
theorem and_fe_ne_zero_iff (a : Byte) : ¬ a &&& 254#8 = 0#8 ↔ 2 ≤ a.toNat := by
  revert a
  decide

/-- Outside the register index at A's bits 3 to 0 a bit is set. -/
theorem and_f0_ne_zero_iff (a : Byte) : ¬ a &&& 240#8 = 0#8 ↔ 16 ≤ a.toNat := by
  revert a
  decide

/-- One of SETBIND's must-be-zero bits, A's bits 7, 6 and 3, is set. -/
theorem and_c8_ne_zero_iff (a : Byte) : ¬ a &&& 200#8 = 0#8 ↔ 64 ≤ a.toNat ∨ a.toNat / 8 % 2 ≠ 0 := by
  revert a
  decide

/-- One of INEDGE's must-be-zero bits, A's bits 7, 6 and 3 to 1, is set. -/
theorem and_ce_ne_zero_iff (a : Byte) : ¬ a &&& 206#8 = 0#8 ↔ 64 ≤ a.toNat ∨ a.toNat / 2 % 8 ≠ 0 := by
  revert a
  decide

/-- The id at A's bits 5 and 4 names no input exactly when it is 0 or 3 (92_eei_decisions.md D30). -/
theorem inputId_eq_none_iff (a : Byte) :
    InputId.ofCode (a.extractLsb' 4 2) = none ↔ a.toNat / 16 % 4 = 0 ∨ a.toNat / 16 % 4 = 3 := by
  revert a
  decide

/-- The id field of SETBIND and INEDGE, w[21:20], lies in A. -/
theorem idField_assembleWord (op a : Byte) (imm : Half) :
    (assembleWord op a imm).extractLsb' 20 2 = a.extractLsb' 4 2 :=
  extractLsb'_assembleWord_a op a imm (lo := 4) (by decide)

/-! ### The rows of the opcode map, those with the same must-be-zero bits together (30_encoding.md R93) -/

section Rows

variable {p : Params} {op a : Byte} {imm : Half}

/-- An OP that no row lists (30_encoding.md R96). -/
theorem isReserved_of_unlisted (h : op ∉ listedOpcodes) : (decode p (assembleWord op a imm)).IsReserved := by
  simp only [listedOpcodes, List.mem_cons, List.not_mem_nil, or_false, not_or, BitVec.ofNat_eq_ofNat] at h
  simp [decode_eq_fields, h]

/-- SETFREQ, SETPWR and SETPOS: A is zero. -/
theorem isReserved_immediate_iff (h : op ∈ [0x01, 0x02, 0x09]) :
    (decode p (assembleWord op a imm)).IsReserved ↔ a ≠ 0 := by
  simp only [List.mem_cons, List.not_mem_nil, or_false] at h
  rcases h with rfl | rfl | rfl <;> simp [decode_eq_fields]

/-- SETRUN: A is a one-bit field. -/
theorem isReserved_setrun_iff : (decode p (assembleWord 0x03#8 a imm)).IsReserved ↔ 2 ≤ a.toNat := by
  simp [decode_eq_fields, and_fe_ne_zero_iff]

/-- SETCTL and SETESTOP: A is a one-bit field and IMM is zero. -/
theorem isReserved_oneBit_iff (h : op ∈ [0x04, 0x08]) :
    (decode p (assembleWord op a imm)).IsReserved ↔ 2 ≤ a.toNat ∨ imm ≠ 0 := by
  simp only [List.mem_cons, List.not_mem_nil, or_false] at h
  rcases h with rfl | rfl <;> simp [decode_eq_fields, imp_iff_not_or, and_fe_ne_zero_iff]

/-- TURNON, TURNOFF and TICK: no operand. -/
theorem isReserved_noOperand_iff (h : op ∈ [0x06, 0x07, 0x10]) :
    (decode p (assembleWord op a imm)).IsReserved ↔ a ≠ 0 ∨ imm ≠ 0 := by
  simp only [List.mem_cons, List.not_mem_nil, or_false] at h
  rcases h with rfl | rfl | rfl <;> simp [decode_eq_fields, imp_iff_not_or]

/-- READREG: A is a four-bit field and IMM is zero. -/
theorem isReserved_readreg_iff : (decode p (assembleWord 0x0A#8 a imm)).IsReserved ↔ 16 ≤ a.toNat ∨ imm ≠ 0 := by
  simp [decode_eq_fields, imp_iff_not_or, and_f0_ne_zero_iff]

/-- PWMEDGE: A is a one-bit field and IMM fits TS_WIDTH. -/
theorem isReserved_pwmedge_iff :
    (decode p (assembleWord 0x20#8 a imm)).IsReserved ↔ 2 ≤ a.toNat ∨ 2 ^ p.tsWidth ≤ imm.toNat := by
  simp [decode_eq_fields, imp_iff_not_or, and_fe_ne_zero_iff]

/-- ADCDONE: A is zero and IMM fits ADC_BITS. -/
theorem isReserved_adcdone_iff :
    (decode p (assembleWord 0x30#8 a imm)).IsReserved ↔ a ≠ 0 ∨ 2 ^ p.adcBits ≤ imm.toNat := by
  simp [decode_eq_fields, imp_iff_not_or]

/-- SETBIND: bits 7, 6 and 3 of A and IMM are zero, and the id is an input's. -/
theorem isReserved_setbind_iff : (decode p (assembleWord 0x05#8 a imm)).IsReserved ↔
    64 ≤ a.toNat ∨ a.toNat / 8 % 2 ≠ 0 ∨ imm ≠ 0 ∨ a.toNat / 16 % 4 = 0 ∨ a.toNat / 16 % 4 = 3 := by
  rw [← inputId_eq_none_iff, ← or_assoc, ← and_c8_ne_zero_iff]
  cases h : InputId.ofCode (a.extractLsb' 4 2) <;>
    simp [decode_eq_fields, idField_assembleWord, h, imp_iff_not_or]

/-- INEDGE: bits 7, 6 and 3 to 1 of A and IMM are zero, and the id is an input's. -/
theorem isReserved_inedge_iff : (decode p (assembleWord 0x40#8 a imm)).IsReserved ↔
    64 ≤ a.toNat ∨ a.toNat / 2 % 8 ≠ 0 ∨ imm ≠ 0 ∨ a.toNat / 16 % 4 = 0 ∨ a.toNat / 16 % 4 = 3 := by
  rw [← inputId_eq_none_iff, ← or_assoc, ← and_ce_ne_zero_iff]
  cases h : InputId.ofCode (a.extractLsb' 4 2) <;>
    simp [decode_eq_fields, idField_assembleWord, h, imp_iff_not_or]

end Rows

end Sys2Proof

namespace Sys2Proof.Machine

/-- Settles O4: the word is taken apart into its fields, and each OP of the opcode map leaves the one disjunct that its
row's lemma gives; an OP outside it is none of the listed numbers. -/
theorem reservedWords : Obligations.ReservedWords := by
  unfold Obligations.ReservedWords
  refine ⟨fun p w => ?_, fun _ _ _ ⟨_, h⟩ => performWord_reserved h⟩
  rw [← Decoded.IsReserved, ← assembleWord_fields w]
  generalize w.extractLsb' 24 8 = op, w.extractLsb' 16 8 = a, w.extractLsb' 0 16 = imm
  simp only [op_assembleWord, a_assembleWord, imm_assembleWord, toNat_ne_zero_iff]
  by_cases hl : op ∈ listedOpcodes
  · simp only [listedOpcodes, List.mem_cons, List.not_mem_nil, or_false] at hl
    rcases hl with rfl | rfl | rfl | rfl | rfl | rfl | rfl | rfl | rfl | rfl | rfl | rfl | rfl | rfl <;>
      simp [isReserved_immediate_iff, isReserved_setrun_iff, isReserved_oneBit_iff, isReserved_noOperand_iff,
        isReserved_readreg_iff, isReserved_pwmedge_iff, isReserved_adcdone_iff, isReserved_setbind_iff,
        isReserved_inedge_iff]
  · have hn : op.toNat ∉ listedOpcodes.map BitVec.toNat := by
      rwa [List.mem_map_of_injective BitVec.toNat_injective]
    exact iff_of_true (isReserved_of_unlisted hl) (.inl hn)

end Sys2Proof.Machine
end

section
/-! SUPPORT. The sample producers (40_aggregator.md R110, R112): the two accumulations case by case, each case an
equation under the condition that selects it, then the words of PWMEDGE and ADCDONE, and the two rules. -/

namespace Sys2Proof.Machine

/-! ### The decimation counter and the saturating counts -/

/-- The Nth event is processed, and the counter starts again. -/
theorem decimate_last {n : Nat} {skip : Half} (h : skip.toNat + 1 = n) : decimate n skip = (true, 0) := by
  obtain ⟨-, hd⟩ | ⟨hne, -⟩ := decimate_cases n skip
  · exact hd
  · exact absurd h hne

/-- Every other event is only counted. -/
theorem decimate_skipped {n : Nat} {skip : Half} (h : skip.toNat + 1 ≠ n) : decimate n skip = (false, skip + 1) := by
  obtain ⟨he, -⟩ | ⟨-, hd⟩ := decimate_cases n skip
  · exact absurd he h
  · exact hd

/-- A saturating sum, with the bound first. -/
theorem addsat_toNat_min {n : Nat} (a : BitVec n) (b : Nat) : (addsat a b).toNat = min (2 ^ n - 1) (a.toNat + b) := by
  rw [addsat_toNat, min_comm]

/-! ### The edge state machine, phase by phase (40_aggregator.md R110) -/

section Capture

variable {p : Params} {ts : Half} {pwm : PwmAccumulator}

theorem captureEdge_waitFall_rising (hp : pwm.phase = .waitFall) : captureEdge p true ts pwm = pwm := by
  simp [captureEdge, hp]

theorem captureEdge_waitFall_last (hp : pwm.phase = .waitFall) (hn : pwm.skip.toNat + 1 = p.pwmDecim) :
    captureEdge p false ts pwm = { pwm with skip := 0, tFall := ts, phase := .waitRise1 } := by
  simp [captureEdge, hp, decimate_last hn]

theorem captureEdge_waitFall_skipped (hp : pwm.phase = .waitFall) (hn : pwm.skip.toNat + 1 ≠ p.pwmDecim) :
    captureEdge p false ts pwm = { pwm with skip := pwm.skip + 1 } := by
  simp [captureEdge, hp, decimate_skipped hn]

/-- In the two phases that await a rising edge a falling one is ignored. -/
theorem captureEdge_waitRise_falling (hp : pwm.phase ≠ .waitFall) : captureEdge p false ts pwm = pwm := by
  cases h : pwm.phase with
  | waitFall => exact absurd h hp
  | waitRise1 => simp [captureEdge, h]
  | waitRise2 => simp [captureEdge, h]

theorem captureEdge_waitRise1_rising (hp : pwm.phase = .waitRise1) :
    captureEdge p true ts pwm = { pwm with tRise1 := ts, phase := .waitRise2 } := by
  simp [captureEdge, hp]

theorem captureEdge_waitRise2_rising (hp : pwm.phase = .waitRise2) :
    captureEdge p true ts pwm = addCycle p ts pwm := by
  simp [captureEdge, hp]

end Capture

/-! ### One conversion (40_aggregator.md R112) -/

theorem addConversion_last {p : Params} {adc : AdcAccumulator} (value : Half) (hn : adc.skip.toNat + 1 = p.adcDecim) :
    addConversion p value adc = ⟨addsat adc.sum value.toNat, addsat adc.count 1, 0⟩ := by
  obtain ⟨hne, -⟩ | ⟨-, h⟩ := addConversion_cases p value adc
  · exact absurd hn hne
  · exact h

theorem addConversion_skipped {p : Params} {adc : AdcAccumulator} (value : Half)
    (hn : adc.skip.toNat + 1 ≠ p.adcDecim) : addConversion p value adc = { adc with skip := adc.skip + 1 } := by
  obtain ⟨-, h⟩ | ⟨he, -⟩ := addConversion_cases p value adc
  · rw [h, decimate_skipped hn]
  · exact absurd he hn

/-! ### The two operations, for an operand that fits the instance -/

/-- PWMEDGE answers OK, whatever the edge machine does with the edge. -/
theorem exec_pwmedge {rising : Bool} {ts : Half} {s : State} (fits : ts.toNat < 2 ^ s.params.tsWidth) :
    exec (.pwmedge rising ts) s
      = .next (answered .ok 0 { s with pwm := captureEdge s.params rising ts s.pwm }) :=
  if_pos fits

/-- ADCDONE answers OK and restarts the converter, whatever the accumulator does with the value. -/
theorem exec_adcdone {value : Half} {s : State} (fits : value.toNat < 2 ^ s.params.adcBits) :
    exec (.adcdone value) s = .next (answered .ok 0
      { s with adc := addConversion s.params value s.adc, log := s.log ++ [.adcRestart] }) :=
  if_pos fits

/-! ### Their words (30_encoding.md R93) -/

/-- A byte's high seven bits are masked to zero exactly when the field they make is zero. -/
theorem and_fe_eq_zero_iff (x : Byte) : x &&& 254#8 = 0#8 ↔ x.extractLsb' 1 7 = 0 := by
  revert x
  decide

/-- A one-bit field, read as a flag, is the word's bit there. -/
theorem flagOfBit_extractLsb' {width : Nat} (w : BitVec width) (i : Nat) :
    flagOfBit (w.extractLsb' i 1) = w.getLsbD i := by
  have hbit : ∀ b : BitVec 1, flagOfBit b = b.getLsbD 0 := by decide
  simp [hbit]

/-- A word of OP 0x20 is reserved when w[23:17] or a bit of the timestamp above TS_WIDTH is set, and PWMEDGE
otherwise. -/
theorem decode_pwmedge (p : Params) {w : OpWord} (hop : w.extractLsb' 24 8 = 0x20) :
    decode p w = if w.extractLsb' 17 7 ≠ 0 ∨ 2 ^ p.tsWidth ≤ (w.extractLsb' 0 16).toNat
      then .reserved (unselectedCause w) else .operation (.pwmedge (w.getLsbD 16) (w.extractLsb' 0 16)) := by
  have hA : w.extractLsb' 16 8 &&& 254#8 = 0#8 ↔ w.extractLsb' 17 7 = 0 := by
    rw [and_fe_eq_zero_iff, extractLsb'_extractLsb' w (by omega)]
  simp only [ne_eq, ← not_lt, ← not_and_or, ite_not, ← hA]
  rw [decode_eq_fields]
  simp [hop, flagOfBit_extractLsb']

/-- A word of OP 0x30 is reserved when w[23:16] or a bit of the value above ADC_BITS is set, and ADCDONE otherwise. -/
theorem decode_adcdone (p : Params) {w : OpWord} (hop : w.extractLsb' 24 8 = 0x30) :
    decode p w = if w.extractLsb' 16 8 ≠ 0 ∨ 2 ^ p.adcBits ≤ (w.extractLsb' 0 16).toNat
      then .reserved (unselectedCause w) else .operation (.adcdone (w.extractLsb' 0 16)) := by
  simp only [ne_eq, ← not_lt, ← not_and_or, ite_not]
  rw [decode_eq_fields]
  simp [hop]

/-- A word that decodes to a refusal under a condition and to an operation otherwise is performed so. -/
theorem performWord_ite {c : Prop} [Decidable c] {a : Agent} {w : OpWord} {s : State} {cause : ReservedCause}
    {i : Instr} (h : decode s.params w = if c then .reserved cause else .operation i) :
    performWord a w s = if c then reservedOutcome a s else exec i (submittedBy a s) := by
  split
  · next hc => exact performWord_reserved (h.trans (if_pos hc))
  · next hc => exact performWord_operation (h.trans (if_neg hc))

/-! ### The rules -/

/-- Settles O23: `exec_pwmedge` leaves the edge machine, whose equation for each phase and polarity is one clause; the
completed cycle's difference and sums are read off `addCycle`. -/
theorem pwmedgeRule : Obligations.PwmedgeRule := by
  unfold Obligations.PwmedgeRule
  refine ⟨fun rising ts s fits => ?_, fun a w s hop => performWord_ite (decode_pwmedge s.params hop)⟩
  rw [exec_pwmedge fits]
  refine ⟨?_, ?_, ?_, ?_, ?_, ?_⟩
  · rintro hp rfl
    rw [captureEdge_waitFall_rising hp]
  · rintro hp rfl hn
    rw [captureEdge_waitFall_last hp hn]
  · rintro hp rfl hn
    rw [captureEdge_waitFall_skipped hp hn]
  · rintro hp rfl
    rw [captureEdge_waitRise_falling hp]
  · rintro hp rfl
    rw [captureEdge_waitRise1_rising hp]
  · rintro hp rfl
    rw [captureEdge_waitRise2_rising hp]
    exact ⟨_, _, _, _, _, subMod_toInt _ _ _, subMod_toInt _ _ _, addsat_toNat_min _ _, addsat_toNat_min _ _,
      addsat_toNat_min _ _, rfl⟩

/-- Settles O24: `exec_adcdone` leaves the accumulator, with one equation for the ADC_DECIM-th conversion and one for
every other. -/
theorem adcdoneRule : Obligations.AdcdoneRule := by
  unfold Obligations.AdcdoneRule
  refine ⟨fun value s fits => ?_, fun a w s hop => performWord_ite (decode_adcdone s.params hop)⟩
  rw [exec_adcdone fits]
  refine ⟨fun hn => ?_, fun hn => ?_⟩
  · rw [addConversion_last value hn]
    exact ⟨_, _, addsat_toNat_min _ _, addsat_toNat_min _ _, rfl⟩
  · rw [addConversion_skipped value hn]

end Sys2Proof.Machine
end

section
/-! SUPPORT. The measuring and the regulating stage of TICK (41_tick.md R131, R133, R134) as plain numbers: the reducer's
formulas of the accumulators as they stand, the position after one bang-bang step, and the two rules. -/

namespace Sys2Proof.Machine

/-! ### The narrowed values, with the bound first -/

theorem satU_toNat_min (n v : Nat) : (satU n (v : Int)).toNat = min (2 ^ n - 1) v := by
  rw [satU_toNat, min_comm]

theorem satU_toInt_min (n : Nat) (v : Int) : ((satU n v).toNat : Int) = min (2 ^ n - 1) (max 0 v) := by
  rw [satU_toInt, min_comm, max_comm]

/-! ### The reducer's formulas of the accumulators' fields (41_tick.md R131) -/

/-- A field is zero as a number exactly when it is zero. -/
theorem toNat_eq_zero_iff {n : Nat} (x : BitVec n) : x.toNat = 0 ↔ x = 0 :=
  not_iff_not.mp (toNat_ne_zero_iff x)

theorem frequencyOf_toNat (p : Params) (per : BitVec 32) (pcnt : Half) :
    frequencyOf p per.toNat pcnt.toNat =
      if pcnt = 0 ∨ per = 0 then 0 else p.cpuClockHz * pcnt.toNat / per.toNat := by
  simp only [frequencyOf, toNat_eq_zero_iff]

theorem dutyOf_toNat (on per : BitVec 32) (pcnt : Half) :
    dutyOf on.toNat per.toNat pcnt.toNat = if pcnt = 0 ∨ per = 0 then 0 else on.toNat * 1000 / per.toNat := by
  simp only [dutyOf, toNat_eq_zero_iff]

theorem currentOf_toNat (p : Params) (asum : BitVec 32) (acnt : Half) :
    currentOf p asum.toNat acnt.toNat =
      if acnt = 0 then 0
      else
        let volt : Nat := asum.toNat / acnt.toNat * p.fullScaleVoltage / p.adcFullScale
        if p.currentInvert then (p.midScaleVoltage : Int) - volt else (volt : Int) - p.midScaleVoltage := by
  simp only [currentOf, toNat_eq_zero_iff]

/-! ### What the later stages keep of the measuring stage -/

/-- The state TICK leaves (41_tick.md R130). -/
def ticked (s : State) : State := answered .ok 0 (countdownStage (regulateStage (measure s)))

theorem exec_tick_ticked (s : State) : exec .tick s = .next (ticked s) := exec_tick s

theorem eq_ticked_of_exec {s t : State} (h : exec .tick s = .next t) : t = ticked s := by
  rw [exec_tick_ticked] at h
  exact (Host.Outcome.next.inj h).symm

/-- The regulating and the counting stage keep the four measured values. -/
@[simp] theorem ticked_measured (s : State) :
    (ticked s).st.measuredFrequencyHz = (measure s).st.measuredFrequencyHz ∧
    (ticked s).st.measuredDutyCycleDeciPercent = (measure s).st.measuredDutyCycleDeciPercent ∧
    (ticked s).st.measuredCurrentDeciAmps = (measure s).st.measuredCurrentDeciAmps ∧
    (ticked s).st.measuredPowerDeciWatts = (measure s).st.measuredPowerDeciWatts := by
  simp [ticked]

/-- They keep the drained accumulators too. -/
@[simp] theorem ticked_accumulators (s : State) :
    (ticked s).pwm = (measure s).pwm ∧ (ticked s).adc = (measure s).adc := by
  simp [ticked]

/-- The position is the regulating stage's. -/
@[simp] theorem ticked_actuatorPosition (s : State) :
    (ticked s).st.actuatorPosition = (regulateStage (measure s)).st.actuatorPosition := by
  simp [ticked]

/-! ### The position after a bang-bang step (41_tick.md R133; 42_actuator.md R151, R152) -/

/-- One step down, as numbers: 0 stays 0. -/
theorem actDecrement_position (s : State) :
    (actDecrement s).st.actuatorPosition.toNat = s.st.actuatorPosition.toNat - 1 := by
  have hlt := s.st.actuatorPosition.isLt
  obtain ⟨-, he⟩ | ⟨h0, he⟩ := actDecrement_cases s
  · simp only [he, movePosition_st, BitVec.toNat_ofNat]
    omega
  · rw [he]
    omega

/-- One step up below MAX_STEP: the 8 bits hold the new position. -/
theorem actIncrement_position {s : State} (hmax : s.params.maxStep ≤ 255)
    (hpos : s.st.actuatorPosition.toNat < s.params.maxStep) :
    (actIncrement s).st.actuatorPosition.toNat = s.st.actuatorPosition.toNat + 1 := by
  obtain ⟨-, he⟩ | ⟨hge, -⟩ := actIncrement_cases s
  · simp only [he, movePosition_st, BitVec.toNat_ofNat]
    omega
  · omega

/-- The loop's new position, by the comparison of power and setpoint and by the conditions that stop it. -/
theorem regulate_position {s : State} (hmax : s.params.maxStep ≤ 255)
    (hpos : s.st.actuatorPosition.toNat ≤ s.params.maxStep) :
    (regulate s).st.actuatorPosition.toNat =
      if s.st.measuredPowerDeciWatts.toNat > s.cfg.powerDeciWatts.toNat then
        (if s.st.measuredDutyCycleDeciPercent.toNat ≠ 0 ∧ s.st.actuatorPosition.toNat ≠ 0
          then s.st.actuatorPosition.toNat - 1 else s.st.actuatorPosition.toNat)
      else if s.st.measuredPowerDeciWatts.toNat < s.cfg.powerDeciWatts.toNat then
        (if s.st.measuredDutyCycleDeciPercent.toNat ≤ s.params.dutyMaxThreshold
            ∧ s.st.actuatorPosition.toNat ≠ s.params.maxStep
          then s.st.actuatorPosition.toNat + 1 else s.st.actuatorPosition.toNat)
      else s.st.actuatorPosition.toNat := by
  unfold regulate
  dsimp only
  split
  · split
    · exact actDecrement_position s
    · rfl
  · split
    · split
      · next h => exact actIncrement_position hmax (lt_of_le_of_ne hpos h.2)
      · rfl
    · rfl

/-- The gate of the loop: enabled and ConstantFrequency (R134). -/
theorem regulateStage_eq_ite (s : State) :
    regulateStage s =
      if s.st.isOutputEnabled = true ∧ s.cfg.controlMode = .constantFrequency then regulate s else s := rfl

/-! ### The rules -/

/-- Settles O27: the later stages keep what `measure` stores and drains, and each stored value is a saturated formula of
the accumulators. -/
theorem tickMeasures : Obligations.TickMeasures := by
  unfold Obligations.TickMeasures
  intro s
  obtain ⟨hfreq, hduty, hcurrent, hpower⟩ := ticked_measured s
  obtain ⟨hpwm, hadc⟩ := ticked_accumulators s
  refine ⟨ticked s, exec_tick_ticked s, ?_, ?_, ?_, ?_, hpwm, hadc⟩
  · rw [hfreq, measure_st, ← frequencyOf_toNat]
    exact satU_toNat_min _ _
  · rw [hduty, measure_st, ← dutyOf_toNat]
    exact satU_toNat_min _ _
  · rw [hcurrent, measure_st, ← currentOf_toNat]
    exact satU_toInt_min _ _
  · rw [hpower, hcurrent, hduty, measure_st]
    exact satU_toNat_min _ _

/-- Settles O28: the position is the regulating stage's, whose loop compares this tick's own measurements, which the
counting stage keeps. -/
theorem tickRegulates : Obligations.TickRegulates := by
  unfold Obligations.TickRegulates
  intro s t hmax hpos h
  obtain rfl := eq_ticked_of_exec h
  obtain ⟨-, hduty, -, hpower⟩ := ticked_measured s
  dsimp only
  rw [hduty, hpower, ticked_actuatorPosition, regulateStage_eq_ite, measure_isOutputEnabled, measure_cfg]
  split
  · exact regulate_position (s := measure s) hmax hpos
  · rfl

end Sys2Proof.Machine
end

section
/-! SUPPORT. SETFREQ and TURNOFF (43_state_machine.md R166, R170): each operation's equation under the condition that
selects it, its words, and the two rules. -/

namespace Sys2Proof.Machine

/-! ### SETFREQ (43_state_machine.md R170) -/

/-- A frequency within [MIN_FREQ, MAX_FREQ] is stored and written to the generator. -/
theorem exec_setfreq_accepted {hz : Half} {s : State} (lo : s.params.minFreq ≤ hz.toNat)
    (hi : hz.toNat ≤ s.params.maxFreq) :
    exec (.setfreq hz) s = .next (answered .ok 0
      { s with cfg := { s.cfg with frequencyHz := hz }, log := s.log ++ [.genFreqWrite hz] }) :=
  if_neg (not_or.mpr ⟨lo.not_gt, hi.not_gt⟩)

/-- A frequency outside the bounds is only answered. -/
theorem exec_setfreq_refused {hz : Half} {s : State}
    (out : hz.toNat < s.params.minFreq ∨ s.params.maxFreq < hz.toNat) :
    exec (.setfreq hz) s = .next (answered .errRange 0 s) :=
  if_pos out

/-- A word of OP 0x01 is reserved when w[23:16] is not zero, and SETFREQ of w[15:0] otherwise (30_encoding.md R93). -/
theorem decode_setfreq (p : Params) {w : OpWord} (hop : w.extractLsb' 24 8 = 0x01) :
    decode p w = if w.extractLsb' 16 8 ≠ 0 then .reserved (unselectedCause w)
      else .operation (.setfreq (w.extractLsb' 0 16)) := by
  rw [decode_eq_fields, ite_not]
  simp [hop]

/-- Settles O7: a frequency is within the bounds or outside them, with one equation of SETFREQ for each; the level
GEN_FREQ is read off the accepted state, and `decode_setfreq` says which words are refused. -/
theorem setfreqRule : Obligations.SetfreqRule := by
  unfold Obligations.SetfreqRule
  exact ⟨fun _ _ lo hi => exec_setfreq_accepted lo hi, fun _ _ lo hi => ⟨_, exec_setfreq_accepted lo hi, rfl⟩,
    fun _ _ out => exec_setfreq_refused out, fun _ _ s hop => performWord_ite (decode_setfreq s.params hop)⟩

/-! ### TURNOFF (43_state_machine.md R166) -/

/-- TURNOFF has no condition: it answers OK and leaves what `turnOff` leaves, from every operating state. -/
theorem exec_turnoff (s : State) : exec .turnoff s = .next (answered .ok 0 (turnOff s)) := rfl

/-- A word of OP 0x07 is TURNOFF when its other 24 bits are zero, and reserved otherwise (30_encoding.md R93). -/
theorem decode_turnoff (p : Params) {w : OpWord} (hop : w.extractLsb' 24 8 = 0x07) :
    decode p w = if w ≠ 0x07000000 then .reserved (unselectedCause w) else .operation .turnoff := by
  have hw : w = 0x07000000 ↔ w.extractLsb' 16 8 = 0 ∧ w.extractLsb' 0 16 = 0 := by
    rw [eq_iff_fields]
    simp [hop]
  rw [ite_not, if_congr hw rfl rfl, decode_eq_fields]
  simp [hop]

/-- Settles O15: `exec_turnoff` leaves `turnOff`, whose update names only the enable, the countdown and the log, so
EStop stays; `decode_turnoff` says which words are refused. -/
theorem turnoffRule : Obligations.TurnoffRule := by
  unfold Obligations.TurnoffRule
  exact ⟨exec_turnoff, fun _ _ s hop => performWord_ite (decode_turnoff s.params hop)⟩

end Sys2Proof.Machine
end

section
/-! SUPPORT. The input dispatcher (44_inputs.md R200, R201): the words of SETBIND and INEDGE, whose id field names an
input or none, what each transition leaves when an announcement follows it, and the two rules. -/

namespace Sys2Proof.Machine

/-! ### Their words (30_encoding.md R93; 92_eei_decisions.md D30) -/

/-- SETBIND's must-be-zero bits of A are its bits 7, 6 and 3. -/
theorem and_c8_eq_zero_iff (x : Byte) : x &&& 200#8 = 0#8 ↔ x.extractLsb' 6 2 = 0 ∧ x.getLsbD 3 = false := by
  revert x
  decide

/-- INEDGE's must-be-zero bits of A are its bits 7, 6 and 3 to 1. -/
theorem and_ce_eq_zero_iff (x : Byte) : x &&& 206#8 = 0#8 ↔ x.extractLsb' 6 2 = 0 ∧ x.extractLsb' 1 3 = 0 := by
  revert x
  decide

/-- A two-bit field is read as the action that it numbers. -/
theorem inputActionOfCode_eq {b : BitVec 2} {action : InputAction} (h : b.toNat = numberOfAction action) :
    InputAction.ofCode b = action := by
  have hb : b = action.code := BitVec.eq_of_toNat_eq (h.trans (toNat_inputActionCode action).symm)
  rw [hb, InputAction.ofCode_code]

/-- A word of OP 0x05 is reserved when w[23:22], w[19] or w[15:0] is not zero, and else the SETBIND of the input that
w[21:20] names, or reserved when it names none. -/
theorem decode_setbind (p : Params) {w : OpWord} (hop : w.extractLsb' 24 8 = 0x05) :
    decode p w =
      if w.extractLsb' 22 2 ≠ 0 ∨ w.getLsbD 19 = true ∨ w.extractLsb' 0 16 ≠ 0 then .reserved (unselectedCause w)
      else (InputId.ofCode (w.extractLsb' 20 2)).elim (.reserved .inputId)
        fun id => .operation (.setbind id (InputAction.ofCode (w.extractLsb' 16 2)) (w.getLsbD 18)) := by
  have hA : w.extractLsb' 16 8 &&& 200#8 = 0#8 ↔ w.extractLsb' 22 2 = 0 ∧ w.getLsbD 19 = false := by
    rw [and_c8_eq_zero_iff, extractLsb'_extractLsb' w (by omega)]
    simp
  have hmbz : (w.extractLsb' 22 2 ≠ 0 ∨ w.getLsbD 19 = true ∨ w.extractLsb' 0 16 ≠ 0) ↔
      ¬ (w.extractLsb' 16 8 &&& 200#8 = 0#8 ∧ w.extractLsb' 0 16 = 0) := by
    rw [hA, and_assoc, not_and_or, not_and_or, Bool.not_eq_false]
  rw [if_congr hmbz rfl rfl, ite_not, decode_eq_fields]
  cases InputId.ofCode (w.extractLsb' 20 2) with
  | none => simp [hop]
  | some id => simp [hop, flagOfBit_extractLsb']

/-- A word of OP 0x40 is reserved when w[23:22], w[19:17] or w[15:0] is not zero, and else the INEDGE of the input that
w[21:20] names, or reserved when it names none. -/
theorem decode_inedge (p : Params) {w : OpWord} (hop : w.extractLsb' 24 8 = 0x40) :
    decode p w =
      if w.extractLsb' 22 2 ≠ 0 ∨ w.extractLsb' 17 3 ≠ 0 ∨ w.extractLsb' 0 16 ≠ 0 then .reserved (unselectedCause w)
      else (InputId.ofCode (w.extractLsb' 20 2)).elim (.reserved .inputId)
        fun id => .operation (.inedge id (w.getLsbD 16)) := by
  have hA : w.extractLsb' 16 8 &&& 206#8 = 0#8 ↔ w.extractLsb' 22 2 = 0 ∧ w.extractLsb' 17 3 = 0 := by
    rw [and_ce_eq_zero_iff, extractLsb'_extractLsb' w (by omega), extractLsb'_extractLsb' w (by omega)]
  have hmbz : (w.extractLsb' 22 2 ≠ 0 ∨ w.extractLsb' 17 3 ≠ 0 ∨ w.extractLsb' 0 16 ≠ 0) ↔
      ¬ (w.extractLsb' 16 8 &&& 206#8 = 0#8 ∧ w.extractLsb' 0 16 = 0) := by
    rw [hA, and_assoc, not_and_or, not_and_or]
  rw [if_congr hmbz rfl rfl, ite_not, decode_eq_fields]
  cases InputId.ofCode (w.extractLsb' 20 2) with
  | none => simp [hop]
  | some id => simp [hop, flagOfBit_extractLsb']

/-- A word refused for its must-be-zero bits or else decoded by its id field is performed for input 1, for input 2, or
refused for naming no input. -/
theorem performWord_inputId {c : Prop} [Decidable c] {id : BitVec 2} {a : Agent} {w : OpWord} {s : State}
    {cause : ReservedCause} {op : InputId → Instr}
    (h : decode s.params w = if c then .reserved cause
      else (InputId.ofCode id).elim (.reserved .inputId) fun i => .operation (op i)) :
    performWord a w s = if c then reservedOutcome a s
      else if id = 1 then exec (op .input1) (submittedBy a s)
      else if id = 2 then exec (op .input2) (submittedBy a s)
      else reservedOutcome a s := by
  by_cases hc : c
  · rw [if_pos hc] at h ⊢
    exact performWord_reserved h
  rw [if_neg hc] at h ⊢
  obtain ⟨rfl, -⟩ | ⟨rfl, -⟩ | ⟨h1, h2, hn⟩ := InputId.ofCode_cases id
  · exact performWord_operation h
  · exact performWord_operation h
  · rw [if_neg h1, if_neg h2]
    rw [hn] at h
    exact performWord_reserved h

/-! ### SETBIND (44_inputs.md R200) -/

/-- SETBIND answers OK and replaces the named input's binding. -/
theorem exec_setbind (id : InputId) (action : InputAction) (announce : Bool) (s : State) :
    exec (.setbind id action announce) s
      = .next (answered .ok 0 { s with cfg := withBinding s.cfg id ⟨action, announce⟩ }) := rfl

/-- Settles O12: `exec_setbind` for each of the two inputs, and `decode_setbind` with the action that w[17:16]
numbers. -/
theorem setbindRule : Obligations.SetbindRule := by
  unfold Obligations.SetbindRule
  refine ⟨fun action announce s => ⟨exec_setbind .input1 action announce s, exec_setbind .input2 action announce s⟩,
    fun a w s action hop haction => ?_⟩
  have hd := decode_setbind s.params hop
  rw [inputActionOfCode_eq haction] at hd
  exact performWord_inputId hd

/-! ### INEDGE (44_inputs.md R201): the transitions, each with the events that follow it -/

/-- The state with these events appended to the log. -/
def withEvents (events : List OutputEvent) (s : State) : State := { s with log := s.log ++ events }

/-- What a binding announces of an edge: nothing, or one ANNOUNCE. -/
def announcement (b : InputBinding) (id : InputId) (asserted : Bool) : List OutputEvent :=
  if b.announce then [.announce id asserted] else []

/-- INEDGE answers OK and leaves what the bound action leaves, then the announcement. -/
theorem exec_inedge {id : InputId} {s : State} {b : InputBinding} (hb : bindingOf s.cfg id = b) (asserted : Bool) :
    exec (.inedge id asserted) s
      = .next (answered .ok 0 (withEvents (announcement b id asserted) (inputAct b.action asserted s))) := by
  subst hb
  simp only [exec, execInedge, respond_eq, announcement]
  cases (bindingOf s.cfg id).announce with
  | true => rfl
  | false => simp [withEvents]

theorem withEvents_turnOff (events : List OutputEvent) (s : State) :
    withEvents events (turnOff s) = { s with
      st := { s.st with isOutputEnabled := false, runCountdownTicks := 0 }
      log := s.log ++ .genOff :: events } := by
  simp [withEvents, turnOff, emit]

theorem withEvents_setEStop_true (events : List OutputEvent) (s : State) :
    withEvents events (setEStop true s) = { s with
      st := { s.st with isEmergencyStopped := true, isOutputEnabled := false, runCountdownTicks := 0 }
      log := s.log ++ .genOff :: events } := by
  simp [withEvents, setEStop_true]

/-- Only from Idle does TurnOn write anything; refused or already running, the events stand alone. -/
theorem withEvents_turnOn (events : List OutputEvent) (s : State) :
    withEvents events (turnOn s).2 =
      if s.st.isEmergencyStopped = true ∨ s.st.isOutputEnabled = true then withEvents events s
      else { s with
        st := { s.st with
          isOutputEnabled := true
          runCountdownTicks := if s.cfg.runMode = .timed then s.cfg.runTimerTicks else s.st.runCountdownTicks }
        log := s.log ++ .genOn s.params.waveformKind s.cfg.frequencyHz :: events } := by
  obtain ⟨he, h⟩ | ⟨-, ho, h⟩ | ⟨he, ho, h⟩ := turnOn_cases s
  · rw [h, if_pos (.inl he)]
  · rw [h, if_pos (.inr ho)]
  · rw [h, if_neg (by simp [he, ho])]
    simp [withEvents, enabledState]

/-- Settles O13: by `exec_inedge` each clause is the bound action's transition followed by the announcement, and
`decode_inedge` says which words are refused. -/
theorem inedgeRule : Obligations.InedgeRule := by
  unfold Obligations.InedgeRule
  refine ⟨fun id asserted s b h1 h2 => ?_, fun a w s hop => performWord_inputId (decode_inedge s.params hop)⟩
  have hb : bindingOf s.cfg id = b := by
    cases id with
    | input1 => exact (h1 rfl).symm
    | input2 => exact (h2 rfl).symm
  intro tail unchanged off on stopped
  have hexec := exec_inedge hb asserted
  have hunchanged : withEvents tail s = unchanged := rfl
  have hoff : withEvents tail (turnOff s) = off := withEvents_turnOff tail s
  have hon : withEvents tail (turnOn s).2 = on := withEvents_turnOn tail s
  have hstopped : withEvents tail (setEStop true s) = stopped := withEvents_setEStop_true tail s
  refine ⟨fun haction => ?_, fun haction => ?_, fun haction => ?_, fun haction => ?_⟩
  · rw [haction] at hexec
    exact hexec
  · rw [haction] at hexec
    rw [← hon, ← hoff, ← apply_ite (withEvents tail)]
    exact hexec
  · rw [haction] at hexec
    rw [← hon, ← hoff, ← hunchanged, ← apply_ite (withEvents tail), ← apply_ite (withEvents tail)]
    exact hexec
  · rw [haction] at hexec
    rw [← hstopped, ← hunchanged, ← apply_ite (withEvents tail)]
    exact hexec

end Sys2Proof.Machine
end

section
/-! SUPPORT. The round trip between operations and words (30_encoding.md R93, R95): the fields of a word read back, the
encoder's fields of A put together again, and the rows of the opcode map told apart by their OP byte. -/

namespace Sys2Proof

/-! ### The fields inside A, of a word put together from its three fields -/

section Subfields

variable (op a : Byte) (imm : Half)

theorem lowBit_assembleWord : (assembleWord op a imm).extractLsb' 16 1 = a.extractLsb' 0 1 :=
  extractLsb'_assembleWord_a op a imm (lo := 0) (by decide)

theorem actionField_assembleWord : (assembleWord op a imm).extractLsb' 16 2 = a.extractLsb' 0 2 :=
  extractLsb'_assembleWord_a op a imm (lo := 0) (by decide)

theorem announceField_assembleWord : (assembleWord op a imm).extractLsb' 18 1 = a.extractLsb' 2 1 :=
  extractLsb'_assembleWord_a op a imm (lo := 2) (by decide)

theorem indexField_assembleWord : (assembleWord op a imm).extractLsb' 16 4 = a.extractLsb' 0 4 :=
  extractLsb'_assembleWord_a op a imm (lo := 0) (by decide)

end Subfields

/-- The register index fills A's low nibble and leaves the high one zero. -/
theorem indexA_fields (idx : BitVec 4) :
    ((0 : BitVec 4) ++ idx : BitVec (4 + 4)).extractLsb' 0 4 = idx ∧
    ((0 : BitVec 4) ++ idx : BitVec (4 + 4)) &&& 240#8 = 0#8 := by
  revert idx
  decide

/-- Settles O1: the word of each operation is put together from its fields, so the row of its OP byte reads each operand
back; a timestamp or a value passes the row's mask because it is well formed. -/
theorem decodeOfEncode : Obligations.DecodeOfEncode := by
  unfold Obligations.DecodeOfEncode
  intro p i wf
  rw [decode_eq_fields]
  cases i with
  | setfreq hz => simp [encode]
  | setpwr deciWatts => simp [encode]
  | setrun mode ticks =>
    obtain ⟨hbit, hmbz⟩ := lowBitA_code mode.code
    simp_all [encode, lowBit_assembleWord]
  | setctl mode =>
    obtain ⟨hbit, hmbz⟩ := lowBitA_code mode.code
    simp_all [encode, lowBit_assembleWord]
  | setbind id action announce =>
    obtain ⟨hid, haction, hannounce, hmbz⟩ := bindA_fields id action announce
    simp_all [encode, idField_assembleWord, actionField_assembleWord, announceField_assembleWord]
  | turnon => simp [encode]
  | turnoff => simp [encode]
  | setestop value =>
    obtain ⟨hbit, hmbz⟩ := lowBitA_code (BitVec.ofBool value)
    simp_all [encode, lowBit_assembleWord]
  | setpos step => simp [encode]
  | readreg idx =>
    obtain ⟨hidx, hmbz⟩ := indexA_fields idx
    simp_all [encode, indexField_assembleWord]
  | tick => simp [encode]
  | pwmedge rising ts =>
    obtain ⟨hbit, hmbz⟩ := lowBitA_code (BitVec.ofBool rising)
    simp_all [encode, lowBit_assembleWord]
  | adcdone value => simp_all [encode]
  | inedge id asserted =>
    obtain ⟨hid, hbit, hmbz⟩ := inedgeA_fields id asserted
    simp_all [encode, idField_assembleWord, lowBit_assembleWord]

/-! ### The encoder's fields, put together again from a word's -/

@[simp] theorem RunMode.code_ofCode (b : BitVec 1) : (RunMode.ofCode b).code = b := by
  revert b
  decide

@[simp] theorem ControlMode.code_ofCode (b : BitVec 1) : (ControlMode.ofCode b).code = b := by
  revert b
  decide

@[simp] theorem ofBool_flagOfBit (b : BitVec 1) : BitVec.ofBool (flagOfBit b) = b := by
  revert b
  decide

/-- A with only its low bit used is rebuilt from that bit. -/
theorem lowBitA_extractLsb' (a : Byte) (h : a &&& 254#8 = 0#8) : lowBitA (a.extractLsb' 0 1) = a := by
  revert a
  decide

/-- A with its high nibble zero is rebuilt from the low one. -/
theorem indexA_extractLsb' (a : Byte) (h : a &&& 240#8 = 0#8) :
    ((0 : BitVec 4) ++ a.extractLsb' 0 4 : BitVec (4 + 4)) = a := by
  revert a
  decide

/-- SETBIND's A is rebuilt from the id, the action and the announce flag that it holds. -/
theorem bindA_extractLsb' (a : Byte) (id : InputId) (h : a &&& 200#8 = 0#8)
    (hid : InputId.ofCode (a.extractLsb' 4 2) = some id) :
    bindA id (InputAction.ofCode (a.extractLsb' 0 2)) (flagOfBit (a.extractLsb' 2 1)) = a := by
  revert a
  cases id <;> decide

/-- INEDGE's A is rebuilt from the id and the edge that it holds. -/
theorem inedgeA_extractLsb' (a : Byte) (id : InputId) (h : a &&& 206#8 = 0#8)
    (hid : InputId.ofCode (a.extractLsb' 4 2) = some id) :
    inedgeA id (flagOfBit (a.extractLsb' 0 1)) = a := by
  revert a
  cases id <;> decide

/-- An outcome that is an operation under a condition and reserved otherwise. -/
theorem ite_eq_operation {c : Prop} [Decidable c] {i j : Instr} {cause : ReservedCause}
    (h : (if c then Decoded.operation j else .reserved cause) = .operation i) : c ∧ j = i := by
  split at h
  · next hc => exact ⟨hc, Decoded.operation.inj h⟩
  · cases h

/-- Settles O2: an accepted word has a listed OP; its row's mask leaves A and IMM only the bits of the operands, so the
encoder's fields are the word's, and the sample operands fit the widths of the masks. -/
theorem encodeOfDecode : Obligations.EncodeOfDecode := by
  unfold Obligations.EncodeOfDecode
  intro p w i h
  rw [← assembleWord_fields w] at h ⊢
  generalize w.extractLsb' 24 8 = op, w.extractLsb' 16 8 = a, w.extractLsb' 0 16 = imm at h ⊢
  by_cases hl : op ∈ listedOpcodes
  case neg =>
    obtain ⟨cause, hr⟩ := isReserved_of_unlisted (p := p) (a := a) (imm := imm) hl
    simp [hr] at h
  simp only [listedOpcodes, List.mem_cons, List.not_mem_nil, or_false] at hl
  rw [decode_eq_fields] at h
  rcases hl with rfl | rfl | rfl | rfl | rfl | rfl | rfl | rfl | rfl | rfl | rfl | rfl | rfl | rfl <;>
    simp [lowBit_assembleWord, actionField_assembleWord, announceField_assembleWord, indexField_assembleWord,
      idField_assembleWord] at h
  · -- SETFREQ
    obtain ⟨rfl, rfl⟩ := ite_eq_operation h
    exact ⟨rfl, trivial⟩
  · -- SETPWR
    obtain ⟨rfl, rfl⟩ := ite_eq_operation h
    exact ⟨rfl, trivial⟩
  · -- SETRUN
    obtain ⟨ha, rfl⟩ := ite_eq_operation h
    exact ⟨by simp [encode, lowBitA_extractLsb' a ha], trivial⟩
  · -- SETCTL
    obtain ⟨⟨ha, rfl⟩, rfl⟩ := ite_eq_operation h
    exact ⟨by simp [encode, lowBitA_extractLsb' a ha], trivial⟩
  · -- SETBIND
    split at h
    · next hc =>
      obtain ⟨ha, rfl⟩ := hc
      split at h
      · next id hid =>
        cases h
        exact ⟨by simp [encode, bindA_extractLsb' a id ha hid], trivial⟩
      · cases h
    · cases h
  · -- TURNON
    obtain ⟨⟨rfl, rfl⟩, rfl⟩ := ite_eq_operation h
    exact ⟨rfl, trivial⟩
  · -- TURNOFF
    obtain ⟨⟨rfl, rfl⟩, rfl⟩ := ite_eq_operation h
    exact ⟨rfl, trivial⟩
  · -- SETESTOP
    obtain ⟨⟨ha, rfl⟩, rfl⟩ := ite_eq_operation h
    exact ⟨by simp [encode, lowBitA_extractLsb' a ha], trivial⟩
  · -- SETPOS
    obtain ⟨rfl, rfl⟩ := ite_eq_operation h
    exact ⟨rfl, trivial⟩
  · -- READREG
    obtain ⟨⟨ha, rfl⟩, rfl⟩ := ite_eq_operation h
    exact ⟨congrArg (assembleWord 10 · 0) (indexA_extractLsb' a ha), trivial⟩
  · -- TICK
    obtain ⟨⟨rfl, rfl⟩, rfl⟩ := ite_eq_operation h
    exact ⟨rfl, trivial⟩
  · -- PWMEDGE
    obtain ⟨⟨ha, fits⟩, rfl⟩ := ite_eq_operation h
    exact ⟨by simp [encode, lowBitA_extractLsb' a ha], fits⟩
  · -- ADCDONE
    obtain ⟨⟨rfl, fits⟩, rfl⟩ := ite_eq_operation h
    exact ⟨rfl, fits⟩
  · -- INEDGE
    split at h
    · next hc =>
      obtain ⟨ha, rfl⟩ := hc
      split at h
      · next id hid =>
        cases h
        exact ⟨by simp [encode, inedgeA_extractLsb' a id ha hid], trivial⟩
      · cases h
    · cases h

/-! ### The rows of the opcode map, told apart by their OP byte (30_encoding.md R95) -/

/-- The OP byte of a row. -/
def Row.opByte (r : Row) : Byte := r.matchBits.extractLsb' 24 8

/-- Every row's mask covers the whole OP byte. -/
theorem opByte_masked {p : Params} {r : Row} (h : r ∈ opcodeMap p) : r.mask.extractLsb' 24 8 = 255#8 := by
  simp only [opcodeMap, List.mem_cons, List.not_mem_nil, or_false] at h
  rcases h with rfl | rfl | rfl | rfl | rfl | rfl | rfl | rfl | rfl | rfl | rfl | rfl | rfl | rfl <;>
    simp [immHigh_eq, BitVec.extractLsb'_or]

/-- So a word selects only rows of its own OP byte. -/
theorem opByte_eq_of_selects {p : Params} {r : Row} {w : OpWord} (h : r ∈ opcodeMap p) (hs : r.Selects w) :
    r.opByte = w.extractLsb' 24 8 := by
  rw [Row.opByte, ← hs, BitVec.extractLsb'_and, opByte_masked h, byte_and_ff]

/-- The rows' OP bytes, in the map's order. -/
theorem map_opByte_opcodeMap (p : Params) : (opcodeMap p).map Row.opByte = listedOpcodes := by
  simp [opcodeMap, Row.opByte, listedOpcodes]

/-- Settles O3: a word selects only rows of its own OP byte, and no OP byte is listed twice. -/
theorem opcodeRowsDisjoint : Obligations.OpcodeRowsDisjoint := by
  unfold Obligations.OpcodeRowsDisjoint
  intro p
  have hdistinct : (opcodeMap p).Pairwise fun a b => a.opByte ≠ b.opByte := by
    rw [← List.pairwise_map (R := (· ≠ ·)), map_opByte_opcodeMap]
    decide
  refine hdistinct.imp_of_mem fun ha hb hne w ⟨hsa, hsb⟩ => hne ?_
  rw [opByte_eq_of_selects ha hsa, opByte_eq_of_selects hb hsb]

/-! ### Words of the vectors, and words as bytes -/

/-- Settles O5: the words are closed, so the walk down the map is computed. -/
theorem wordsOfTheVectorsDecode : Obligations.WordsOfTheVectorsDecode := by
  unfold Obligations.WordsOfTheVectorsDecode
  decide

/-- The four bytes of a word carry the word. -/
theorem wordOfBytes_bytesOfWord (w : OpWord) : wordOfBytes (bytesOfWord w) = some w := by
  simp only [bytesOfWord, wordOfBytes, Option.some.injEq]
  rw [BitVec.extractLsb'_append_extractLsb'_eq_extractLsb' (by rfl),
    BitVec.extractLsb'_append_extractLsb'_eq_extractLsb' (by rfl),
    BitVec.extractLsb'_append_extractLsb'_eq_extractLsb' (by rfl)]
  exact BitVec.extractLsb'_eq_self

/-- Settles O6: the bytes carry the word, and two of them are read off the list. -/
theorem transportIsLittleEndian : Obligations.TransportIsLittleEndian := by
  unfold Obligations.TransportIsLittleEndian
  intro p w
  refine ⟨?_, rfl, rfl⟩
  rw [decodeBytes, wordOfBytes_bytesOfWord]

end Sys2Proof
end

section
/-! SUPPORT. The other configuration setters, TURNON, SETESTOP and SETPOS (43_state_machine.md R165, R167, R171 to R173;
42_actuator.md R153): each operation's equation under the condition that selects it, its words, and its rule. -/

namespace Sys2Proof.Machine

/-! ### Words whose A is a one-bit field (30_encoding.md R93) -/

/-- The must-be-zero bits of a one-bit A are w[23:17]. -/
theorem a_and_fe_eq_zero_iff (w : OpWord) : w.extractLsb' 16 8 &&& 254#8 = 0#8 ↔ w.extractLsb' 17 7 = 0 := by
  rw [and_fe_eq_zero_iff, extractLsb'_extractLsb' w (by omega)]

theorem runModeOfCode_extractLsb' (w : OpWord) :
    RunMode.ofCode (w.extractLsb' 16 1) = if w.getLsbD 16 then .timed else .continuous := by
  have hmode : ∀ b : BitVec 1, RunMode.ofCode b = if flagOfBit b then .timed else .continuous := by decide
  rw [hmode, flagOfBit_extractLsb']

theorem controlModeOfCode_extractLsb' (w : OpWord) :
    ControlMode.ofCode (w.extractLsb' 16 1) = if w.getLsbD 16 then .maxEfficiency else .constantFrequency := by
  have hmode : ∀ b : BitVec 1, ControlMode.ofCode b = if flagOfBit b then .maxEfficiency else .constantFrequency := by
    decide
  rw [hmode, flagOfBit_extractLsb']

/-! ### SETPWR (43_state_machine.md R171) -/

theorem exec_setpwr_accepted {dw : Half} {s : State} (hi : dw.toNat ≤ s.params.maxPower) :
    exec (.setpwr dw) s = .next (answered .ok 0 { s with cfg := { s.cfg with powerDeciWatts := dw } }) :=
  if_neg hi.not_gt

theorem exec_setpwr_refused {dw : Half} {s : State} (out : s.params.maxPower < dw.toNat) :
    exec (.setpwr dw) s = .next (answered .errRange 0 s) :=
  if_pos out

/-- A word of OP 0x02 is reserved when w[23:16] is not zero, and SETPWR of w[15:0] otherwise. -/
theorem decode_setpwr (p : Params) {w : OpWord} (hop : w.extractLsb' 24 8 = 0x02) :
    decode p w = if w.extractLsb' 16 8 ≠ 0 then .reserved (unselectedCause w)
      else .operation (.setpwr (w.extractLsb' 0 16)) := by
  rw [decode_eq_fields, ite_not]
  simp [hop]

/-- Settles O8: a power is within MAX_POWER or above it, with one equation of SETPWR for each. -/
theorem setpwrRule : Obligations.SetpwrRule := by
  unfold Obligations.SetpwrRule
  exact ⟨fun _ _ hi => exec_setpwr_accepted hi, fun _ _ out => exec_setpwr_refused out,
    fun _ _ s hop => performWord_ite (decode_setpwr s.params hop)⟩

/-! ### SETRUN (43_state_machine.md R172) -/

theorem exec_setrun_timed_accepted {ticks : Half} {s : State} (lo : s.params.runTicksMin ≤ ticks.toNat)
    (hi : ticks.toNat ≤ s.params.runTicksMax) :
    exec (.setrun .timed ticks) s = .next (answered .ok 0
      { s with cfg := { s.cfg with runMode := .timed, runTimerTicks := ticks } }) :=
  if_neg fun h => not_or.mpr ⟨lo.not_gt, hi.not_gt⟩ h.2

theorem exec_setrun_timed_refused {ticks : Half} {s : State}
    (out : ticks.toNat < s.params.runTicksMin ∨ s.params.runTicksMax < ticks.toNat) :
    exec (.setrun .timed ticks) s = .next (answered .errRange 0 s) :=
  if_pos ⟨rfl, out⟩

/-- Continuous has no bounds to fail, and keeps the configured ticks. -/
theorem exec_setrun_continuous (ticks : Half) (s : State) :
    exec (.setrun .continuous ticks) s
      = .next (answered .ok 0 { s with cfg := { s.cfg with runMode := .continuous } }) := rfl

/-- A word of OP 0x03 is reserved when w[23:17] is not zero, and else the SETRUN of w[16] and w[15:0]. -/
theorem decode_setrun (p : Params) {w : OpWord} (hop : w.extractLsb' 24 8 = 0x03) :
    decode p w = if w.extractLsb' 17 7 ≠ 0 then .reserved (unselectedCause w)
      else .operation (.setrun (if w.getLsbD 16 then .timed else .continuous) (w.extractLsb' 0 16)) := by
  rw [ite_not, ← runModeOfCode_extractLsb', if_congr (a_and_fe_eq_zero_iff w).symm rfl rfl, decode_eq_fields]
  simp [hop]

/-- Settles O9: one equation of SETRUN for each of Timed within the bounds, Timed outside them, and Continuous. -/
theorem setrunRule : Obligations.SetrunRule := by
  unfold Obligations.SetrunRule
  exact ⟨fun _ _ lo hi => exec_setrun_timed_accepted lo hi, fun _ _ out => exec_setrun_timed_refused out,
    exec_setrun_continuous, fun _ _ s hop => performWord_ite (decode_setrun s.params hop)⟩

/-! ### SETCTL (43_state_machine.md R173) -/

theorem exec_setctl (mode : ControlMode) (s : State) :
    exec (.setctl mode) s = .next (answered .ok 0 { s with cfg := { s.cfg with controlMode := mode } }) := rfl

/-- A word of OP 0x04 is reserved when w[23:17] or w[15:0] is not zero, and else the SETCTL of w[16]. -/
theorem decode_setctl (p : Params) {w : OpWord} (hop : w.extractLsb' 24 8 = 0x04) :
    decode p w = if w.extractLsb' 17 7 ≠ 0 ∨ w.extractLsb' 0 16 ≠ 0 then .reserved (unselectedCause w)
      else .operation (.setctl (if w.getLsbD 16 then .maxEfficiency else .constantFrequency)) := by
  simp only [ne_eq, ← not_and_or, ite_not, ← controlModeOfCode_extractLsb', ← a_and_fe_eq_zero_iff]
  rw [decode_eq_fields]
  simp [hop]

/-- Settles O10: SETCTL refuses no mode, and `decode_setctl` says which words are refused. -/
theorem setctlRule : Obligations.SetctlRule := by
  unfold Obligations.SetctlRule
  exact ⟨exec_setctl, fun _ _ s hop => performWord_ite (decode_setctl s.params hop)⟩

/-! ### Two SETFREQs -/

/-- A list of one operation is that operation. -/
theorem execAll_singleton (i : Instr) (s : State) : execAll [i] s = exec i s := by
  obtain ⟨t, h, -⟩ := exec_effect i s
  simp [execAll, h]

/-- After an operation that goes through, the rest of the list is performed in the state it leaves. -/
theorem execAll_cons {i : Instr} {s t : State} (h : exec i s = .next t) (is : List Instr) :
    execAll (i :: is) s = execAll is t := by
  simp [execAll, h]

/-- Settles O11: the first SETFREQ leaves the bounds, which are parameters, so the second is accepted too and stores the
frequency that is there already. -/
theorem setfreqTwice : Obligations.SetfreqTwice := by
  unfold Obligations.SetfreqTwice
  intro hz s lo hi
  have first := exec_setfreq_accepted lo hi
  refine ⟨_, _, (execAll_singleton _ _).trans first, ?_, rfl⟩
  rw [execAll_cons first, execAll_singleton]
  exact exec_setfreq_accepted lo hi

/-! ### TURNON (43_state_machine.md R165) -/

theorem exec_turnon_idle {s : State} (noStop : s.st.isEmergencyStopped = false) (off : s.st.isOutputEnabled = false) :
    exec .turnon s = .next (answered .ok 0 (enabledState s)) := by
  obtain ⟨he, -⟩ | ⟨-, ho, -⟩ | ⟨-, -, h⟩ := turnOn_cases s
  · simp [noStop] at he
  · simp [off] at ho
  · simp [exec, execTurnon, h, respond_eq]

theorem exec_turnon_running {s : State} (noStop : s.st.isEmergencyStopped = false)
    (on : s.st.isOutputEnabled = true) : exec .turnon s = .next (answered .ok 0 s) := by
  obtain ⟨he, -⟩ | ⟨-, -, h⟩ | ⟨-, ho, -⟩ := turnOn_cases s
  · simp [noStop] at he
  · simp [exec, execTurnon, h, respond_eq]
  · simp [on] at ho

theorem exec_turnon_stopped {s : State} (stop : s.st.isEmergencyStopped = true) :
    exec .turnon s = .next (answered .errEstop 0 s) := by
  obtain ⟨-, h⟩ | ⟨he, -⟩ | ⟨he, -⟩ := turnOn_cases s
  · simp [exec, execTurnon, h, respond_eq]
  · simp [stop] at he
  · simp [stop] at he

/-- A word of an operation without operands is that operation's word exactly when its other 24 bits are zero. -/
theorem eq_noOperandWord_iff {w m : OpWord} (hop : w.extractLsb' 24 8 = m.extractLsb' 24 8)
    (ha : m.extractLsb' 16 8 = 0) (himm : m.extractLsb' 0 16 = 0) :
    w = m ↔ w.extractLsb' 16 8 = 0 ∧ w.extractLsb' 0 16 = 0 := by
  rw [eq_iff_fields, ha, himm]
  exact and_iff_right hop

/-- A word of OP 0x06 is TURNON when its other 24 bits are zero, and reserved otherwise. -/
theorem decode_turnon (p : Params) {w : OpWord} (hop : w.extractLsb' 24 8 = 0x06) :
    decode p w = if w ≠ 0x06000000 then .reserved (unselectedCause w) else .operation .turnon := by
  rw [ite_not, if_congr (eq_noOperandWord_iff (m := 0x06000000) hop rfl rfl) rfl rfl, decode_eq_fields]
  simp [hop]

/-- Settles O14: one equation of TURNON for each of Idle, Running and EStopped. -/
theorem turnonRule : Obligations.TurnonRule := by
  unfold Obligations.TurnonRule
  exact ⟨fun _ noStop off => exec_turnon_idle noStop off, fun _ noStop on => exec_turnon_running noStop on,
    fun _ stop => exec_turnon_stopped stop, fun _ _ s hop => performWord_ite (decode_turnon s.params hop)⟩

/-! ### SETESTOP (43_state_machine.md R167) -/

theorem exec_setestop (value : Bool) (s : State) :
    exec (.setestop value) s = .next (answered .ok 0 (setEStop value s)) := rfl

/-- A word of OP 0x08 is reserved when w[23:17] or w[15:0] is not zero, and else the SETESTOP of w[16]. -/
theorem decode_setestop (p : Params) {w : OpWord} (hop : w.extractLsb' 24 8 = 0x08) :
    decode p w = if w.extractLsb' 17 7 ≠ 0 ∨ w.extractLsb' 0 16 ≠ 0 then .reserved (unselectedCause w)
      else .operation (.setestop (w.getLsbD 16)) := by
  simp only [ne_eq, ← not_and_or, ite_not, ← a_and_fe_eq_zero_iff]
  rw [decode_eq_fields]
  simp [hop, flagOfBit_extractLsb']

/-- Settles O16: SETESTOP answers OK for both values, and leaves what `setEStop_true` and `setEStop_false` say. -/
theorem setestopRule : Obligations.SetestopRule := by
  unfold Obligations.SetestopRule
  refine ⟨fun s => ?_, fun s => ?_, fun _ _ s hop => performWord_ite (decode_setestop s.params hop)⟩
  · rw [exec_setestop, setEStop_true]
  · rw [exec_setestop, setEStop_false]

/-! ### SETPOS (42_actuator.md R153) -/

theorem exec_setpos_enabled {s : State} (debug : s.params.hasDebugSetpos = true) (step : Half) :
    exec (.setpos step) s = .next (answered .ok 0 (movePosition (min step.toNat s.params.maxStep) s)) :=
  if_pos debug

theorem exec_setpos_disabled {s : State} (noDebug : s.params.hasDebugSetpos = false) (step : Half) :
    exec (.setpos step) s = .next (answered .errDisabled 0 s) :=
  if_neg (by simp [noDebug])

/-- A word of OP 0x09 is reserved when w[23:16] is not zero, and SETPOS of w[15:0] otherwise. -/
theorem decode_setpos (p : Params) {w : OpWord} (hop : w.extractLsb' 24 8 = 0x09) :
    decode p w = if w.extractLsb' 16 8 ≠ 0 then .reserved (unselectedCause w)
      else .operation (.setpos (w.extractLsb' 0 16)) := by
  rw [decode_eq_fields, ite_not]
  simp [hop]

/-- A position within MAX_STEP fits its 8 bits. -/
theorem toNat_ofNat_position {v maxStep : Nat} (hmax : maxStep ≤ 255) (hv : v ≤ maxStep) :
    (BitVec.ofNat 8 v).toNat = v := by
  rw [BitVec.toNat_ofNat, Nat.mod_eq_of_lt (by omega)]

/-- Settles O21: the step is clamped to MAX_STEP, which the position's 8 bits hold. -/
theorem setposRule : Obligations.SetposRule := by
  unfold Obligations.SetposRule
  exact ⟨fun step _ debug hmax =>
      ⟨_, toNat_ofNat_position hmax (min_le_right _ _), exec_setpos_enabled debug step⟩,
    fun step _ noDebug => exec_setpos_disabled noDebug step,
    fun _ _ s hop => performWord_ite (decode_setpos s.params hop)⟩

end Sys2Proof.Machine
end

section
/-! SUPPORT. The step and the invariant (10_state.md section 6): each transition and each stage of a tick keeps
`State.Inv`, so every operation, every stimulus and every step does. -/

namespace Sys2Proof.Machine

/-! ### Performing a stimulus -/

/-- Performing a word answers a next state: an operation's effect, or the refusal's answer. -/
theorem performWord_effect (a : Agent) (w : OpWord) (s : State) :
    (∃ i t, decode s.params w = .operation i ∧ performWord a w s = .next t ∧ Effect (submittedBy a s) i t) ∨
    (∃ cause, decode s.params w = .reserved cause ∧
      performWord a w s = .next (answered .errReserved 0 (submittedBy a s))) := by
  cases hd : decode s.params w with
  | operation i =>
    obtain ⟨t, ht, he⟩ := exec_effect i (submittedBy a s)
    exact .inl ⟨i, t, rfl, (performWord_operation hd).trans ht, he⟩
  | reserved cause => exact .inr ⟨cause, rfl, performWord_reserved hd⟩

/-- A step that goes through held the state, or performed the front of the inbox. -/
theorem step_cases {s t : State} (h : step s = .next t) :
    s.params.Legal ∧ (t = s ∨
      (∃ a w rest, s.inbox = .operation a w :: rest ∧ performWord a w { s with inbox := rest } = .next t) ∨
      ∃ rest, s.inbox = .reset :: rest ∧ t = performReset { s with inbox := rest }) := by
  unfold step at h
  split at h
  case isFalse => cases h
  next legal =>
    refine ⟨legal, ?_⟩
    unfold performNext at h
    obtain ⟨-, ht⟩ | ⟨x, rest, hx, ht⟩ := takeStimulus_cases s <;> rw [ht] at h
    · exact .inl (Host.Outcome.next.inj h).symm
    · cases x with
      | operation a w => exact .inr (.inl ⟨a, w, rest, hx, h⟩)
      | reset => exact .inr (.inr ⟨rest, hx, (Host.Outcome.next.inj h).symm⟩)

/-! ### The parameters -/

@[simp] theorem enabledState_params (s : State) : (enabledState s).params = s.params := rfl

@[simp] theorem setEStop_params (value : Bool) (s : State) : (setEStop value s).params = s.params := by
  cases value <;> rfl

@[simp] theorem inputAct_params (action : InputAction) (asserted : Bool) (s : State) :
    (inputAct action asserted s).params = s.params := by
  obtain h | ⟨-, -, -, -, h⟩ | ⟨-, h⟩ | ⟨-, -, h⟩ := inputAct_cases action asserted s <;> simp [h]

/-- No operation writes a parameter. -/
theorem Effect.params_eq {s t : State} {i : Instr} (h : Effect s i t) : t.params = s.params := by
  cases h <;> simp

theorem performWord_params {a : Agent} {w : OpWord} {s t : State} (h : performWord a w s = .next t) :
    t.params = s.params := by
  obtain ⟨i, u, -, hu, he⟩ | ⟨cause, -, hu⟩ := performWord_effect a w s <;>
    obtain rfl := Host.Outcome.next.inj (hu.symm.trans h)
  · exact he.params_eq
  · rfl

/-- Settles O51: a step holds the state, performs a word, or resets, and none of these writes a parameter. -/
theorem stepKeepsTheParameters : Obligations.StepKeepsTheParameters := by
  unfold Obligations.StepKeepsTheParameters
  intro s t h
  obtain ⟨-, rfl | ⟨a, w, rest, -, hw⟩ | ⟨rest, -, rfl⟩⟩ := step_cases h
  · rfl
  · exact performWord_params (s := { s with inbox := rest }) hw
  · rfl

/-! ### The invariant, transition by transition -/

/-- MAX_STEP fits the position's 8 bits (00_scope.md R9). -/
theorem maxStep_le_of_legal {p : Params} (legal : p.Legal) : p.maxStep ≤ 255 := by
  obtain ⟨⟨-, -, -, -, -, -, -, -, -, -, hmax, -⟩, -⟩ := legal
  exact hmax

/-- The invariant speaks of the parameters, the configuration, the status and the accumulators only. -/
theorem State.Inv.congr {s t : State} (h : s.Inv) (hparams : t.params = s.params) (hcfg : t.cfg = s.cfg)
    (hst : t.st = s.st) (hpwm : t.pwm = s.pwm) (hadc : t.adc = s.adc) : t.Inv := by
  obtain ⟨cfg, st, pwm, adc, log, params, inbox, submitter, responses⟩ := t
  obtain rfl : params = s.params := hparams
  obtain rfl : cfg = s.cfg := hcfg
  obtain rfl : st = s.st := hst
  obtain rfl : pwm = s.pwm := hpwm
  obtain rfl : adc = s.adc := hadc
  exact { h with }

section Transitions

variable {s : State} (h : s.Inv)
include h

theorem inv_answered (code : ResponseCode) (data : Half) : (answered code data s).Inv := { h with }

theorem inv_emit (e : OutputEvent) : (emit e s).Inv := { h with }

theorem inv_submittedBy (a : Agent) : (submittedBy a s).Inv := { h with }

/-- The output goes off with its countdown. -/
theorem inv_turnOff : (turnOff s).Inv := { h with
  estop := fun _ => rfl
  countdown := fun _ => rfl }

/-- The output is enabled only without EStop. -/
theorem inv_enabledState (noStop : s.st.isEmergencyStopped = false) : (enabledState s).Inv := { h with
  estop := fun stop => absurd (noStop.symm.trans stop) (by decide)
  countdown := fun off => absurd (show true = false from off) (by decide) }

/-- EStop is entered with the output off, and left with the output as it was, which is off. -/
theorem inv_setEStop (value : Bool) : (setEStop value s).Inv := by
  cases value with
  | true => exact { h with estop := fun _ => rfl, countdown := fun _ => rfl }
  | false => exact { h with estop := fun stop => absurd (show false = true from stop) (by decide) }

theorem inv_inputAct (action : InputAction) (asserted : Bool) : (inputAct action asserted s).Inv := by
  obtain he | ⟨-, -, noStop, -, he⟩ | ⟨-, he⟩ | ⟨-, -, he⟩ := inputAct_cases action asserted s <;> rw [he]
  · exact h
  · exact inv_enabledState h noStop
  · exact inv_turnOff h
  · exact inv_setEStop h true

/-- A position within MAX_STEP is what the 8 bits then hold. -/
theorem inv_movePosition {v : Nat} (hv : v ≤ s.params.maxStep) : (movePosition v s).Inv := { h with
  position := (toNat_ofNat_position (maxStep_le_of_legal h.legal) hv).trans_le hv }

/-! ### The stages of a tick -/

/-- The measured duty is at most 1000, because the on-time is at most the period; the window is left empty. -/
theorem inv_measure : (measure s).Inv := { h with
  duty := by
    rw [measure_st]
    simpa [satU_toNat] using dutyOf_le _ h.onTime
  onTime := le_rfl
  sampleSum := fun _ => Nat.zero_le _ }

/-- The loop moves within [0, MAX_STEP]. -/
theorem inv_regulateStage : (regulateStage s).Inv := by
  obtain he | ⟨-, -, v, he, hv⟩ := regulateStage_cases s <;> rw [he]
  · exact h
  · have hpos := h.position
    exact inv_movePosition h (by omega)

/-- The countdown runs while the output is on, and ends with it. -/
theorem inv_countdownStage : (countdownStage s).Inv := by
  obtain ⟨-, he⟩ | ⟨-, -, -, he⟩ | ⟨on, -, -, he⟩ := countdownStage_cases s <;> rw [he]
  · exact h
  · exact inv_turnOff h
  · exact { h with countdown := fun off => absurd (on.symm.trans off) (by decide) }

/-! ### The accumulators -/

/-- An edge keeps the sums ordered, the counter below its factor, and the latches within TS_WIDTH. -/
theorem inv_captureEdge (rising : Bool) {ts : Half} (fits : ts.toNat < 2 ^ s.params.tsWidth) :
    ({ s with pwm := captureEdge s.params rising ts s.pwm } : State).Inv := by
  obtain ⟨-, -, ⟨hn1, hn⟩, -⟩ := h.legal.1
  obtain he | ⟨-, -, -, he⟩ | ⟨-, -, -, he⟩ | ⟨-, -, he⟩ | ⟨-, -, he⟩ :=
    captureEdge_cases s.params rising ts s.pwm <;> rw [he]
  · exact h
  · exact { h with pwmSkip := (decimate_lt hn h.pwmSkip).1 }
  · exact { h with pwmSkip := hn1, tFall := fits }
  · exact { h with tRise1 := fits }
  · exact { h with onTime := addCycle_onSum_le _ _ h.onTime }

/-- A conversion adds at most 65535 to the sum for the one it adds to the count. -/
theorem inv_addConversion (value : Half) :
    ({ s with adc := addConversion s.params value s.adc } : State).Inv := by
  obtain ⟨-, -, -, ⟨hn1, hn⟩, -⟩ := h.legal.1
  obtain ⟨-, he⟩ | ⟨-, he⟩ := addConversion_cases s.params value s.adc <;> rw [he]
  · exact { h with adcSkip := (decimate_lt hn h.adcSkip).1 }
  · refine { h with adcSkip := hn1, sampleSum := fun hlt => ?_ }
    have hsum := h.sampleSum
    have hvalue := value.isLt
    simp only [addsat_toNat] at hlt ⊢
    omega

end Transitions

/-! ### The invariant, for operations, stimuli and steps -/

theorem inv_withBinding {s : State} (h : s.Inv) (id : InputId) (b : InputBinding) :
    ({ s with cfg := withBinding s.cfg id b } : State).Inv := by
  cases id <;> exact { h with }

/-- Every effect of an operation keeps the invariant. -/
theorem Effect.inv {s t : State} {i : Instr} (he : Effect s i t) (h : s.Inv) : t.Inv := by
  cases he with
  | answer i code data => exact inv_answered h code data
  | setfreq hz lo hi => exact { h with frequency := ⟨lo, hi⟩ }
  | setpwr dw hi => exact { h with power := hi }
  | setTimed ticks lo hi => exact { h with runTicks := fun _ => ⟨lo, hi⟩ }
  | setContinuous ticks => exact { h with runTicks := nofun }
  | setctl mode => exact { h with }
  | setbind id action announce => exact inv_answered (inv_withBinding h id _) _ _
  | turnon noStop off => exact inv_answered (inv_enabledState h noStop) _ _
  | turnoff => exact inv_answered (inv_turnOff h) _ _
  | setestop value => exact inv_answered (inv_setEStop h value) _ _
  | setpos step debug => exact inv_answered (inv_movePosition h (min_le_right _ _)) _ _
  | tick => exact inv_answered (inv_countdownStage (inv_regulateStage (inv_measure h))) _ _
  | pwmedge rising ts fits => exact inv_answered (inv_captureEdge h rising fits) _ _
  | adcdone value fits => exact inv_answered (inv_emit (inv_addConversion h value) .adcRestart) _ _
  | inedge id asserted silent => exact inv_answered (inv_inputAct h _ asserted) _ _
  | inedgeAnnounced id asserted announces => exact inv_answered (inv_emit (inv_inputAct h _ asserted) _) _ _

theorem inv_performWord {a : Agent} {w : OpWord} {s t : State} (h : s.Inv) (ht : performWord a w s = .next t) :
    t.Inv := by
  obtain ⟨i, u, -, hu, he⟩ | ⟨cause, -, hu⟩ := performWord_effect a w s <;>
    obtain rfl := Host.Outcome.next.inj (hu.symm.trans ht)
  · exact he.inv (inv_submittedBy h a)
  · exact inv_answered (inv_submittedBy h a) _ _

/-- The reset state of a legal set of parameters: DEFAULT_CONFIG passes the setters' checks, and the rest is zero with
the output off. -/
theorem inv_resetOf {p : Params} (legal : p.Legal) : (State.resetOf p).Inv := by
  obtain ⟨⟨-, -, hpwm, hadc, -⟩, -, -, hfreq, hpower, hticks⟩ := id legal
  exact
    { legal := legal
      frequency := hfreq
      power := hpower
      runTicks := hticks
      position := Nat.zero_le _
      estop := fun _ => rfl
      countdown := fun _ => rfl
      duty := Nat.zero_le _
      onTime := le_rfl
      pwmSkip := hpwm.1
      adcSkip := hadc.1
      sampleSum := fun _ => Nat.zero_le _
      tFall := Nat.two_pow_pos _
      tRise1 := Nat.two_pow_pos _ }

/-- Reset leaves the reset state of the parameters, but for the fields that are the model's own. -/
theorem inv_performReset {s : State} (legal : s.params.Legal) : (performReset s).Inv :=
  (inv_resetOf legal).congr rfl rfl (performReset_st s) rfl rfl

/-- Settles O49: P0 is a legal set of parameters, so the machine's own reset state is one of those of `inv_resetOf`. -/
theorem resetMeetsTheInvariant : Obligations.ResetMeetsTheInvariant := by
  unfold Obligations.ResetMeetsTheInvariant
  exact ⟨inv_resetOf (by decide), fun _ legal => inv_resetOf legal⟩

/-- Settles O48: each field of the state that Reset leaves is given by its own lemma. -/
theorem resetSetsEveryElement : Obligations.ResetSetsEveryElement := by
  unfold Obligations.ResetSetsEveryElement
  intro s
  rw [perform, ← performReset_log s, ← performReset_st s]
  rfl

/-- Settles O50: a step holds the state, performs a word, whose operation's effect keeps the invariant, or resets. -/
theorem stepKeepsTheInvariant : Obligations.StepKeepsTheInvariant := by
  unfold Obligations.StepKeepsTheInvariant
  intro s t h ht
  obtain ⟨legal, rfl | ⟨a, w, rest, -, hw⟩ | ⟨rest, -, rfl⟩⟩ := step_cases ht
  · exact h
  · exact inv_performWord (s := { s with inbox := rest }) { h with } hw
  · exact inv_performReset legal

end Sys2Proof.Machine
end

section
/-! SUPPORT. TICK as a whole (41_tick.md R130, R136): what it keeps, what the counting stage leaves of countdown and
output, what it emits, and runs of ticks. -/

namespace Sys2Proof.Machine

/-! ### What a tick keeps -/

@[simp] theorem ticked_keeps (s : State) :
    (ticked s).cfg = s.cfg ∧ (ticked s).params = s.params ∧ (ticked s).inbox = s.inbox ∧
    (ticked s).submitter = s.submitter ∧ (ticked s).responses = s.responses ++ [⟨s.submitter, .ok, 0⟩] ∧
    (ticked s).st.isEmergencyStopped = s.st.isEmergencyStopped := by
  simp [ticked]

/-! ### The countdown (41_tick.md R136) -/

/-- The counting stage sees the configuration, output and countdown from before the tick. -/
theorem regulateStage_measure_keeps (s : State) :
    (regulateStage (measure s)).cfg = s.cfg ∧
    (regulateStage (measure s)).st.isOutputEnabled = s.st.isOutputEnabled ∧
    (regulateStage (measure s)).st.runCountdownTicks = s.st.runCountdownTicks := by
  simp

/-- A tick keeps countdown and output of a run that is not enabled and Timed. -/
theorem ticked_of_untimed {s : State} (h : s.st.isOutputEnabled = false ∨ s.cfg.runMode = .continuous) :
    (ticked s).st.runCountdownTicks = s.st.runCountdownTicks ∧
    (ticked s).st.isOutputEnabled = s.st.isOutputEnabled := by
  have hc := countdownStage_cases (regulateStage (measure s))
  obtain ⟨hcfg, hout, hcount⟩ := regulateStage_measure_keeps s
  rw [hcfg, hout, hcount] at hc
  obtain ⟨-, he⟩ | ⟨hon, hmode, -⟩ | ⟨hon, hmode, -⟩ := hc
  · simp [ticked, he]
  · simp [hon, hmode] at h
  · simp [hon, hmode] at h

/-- A tick ends an enabled Timed run with one tick or none left, and else leaves it one tick fewer. -/
theorem ticked_of_timed {s : State} (hon : s.st.isOutputEnabled = true) (hmode : s.cfg.runMode = .timed) :
    (s.st.runCountdownTicks.toNat ≤ 1 ∧ (ticked s).st.runCountdownTicks = 0 ∧
      (ticked s).st.isOutputEnabled = false) ∨
    (1 < s.st.runCountdownTicks.toNat ∧
      (ticked s).st.runCountdownTicks.toNat = s.st.runCountdownTicks.toNat - 1 ∧
      (ticked s).st.isOutputEnabled = true) := by
  have hlt := s.st.runCountdownTicks.isLt
  have hc := countdownStage_cases (regulateStage (measure s))
  obtain ⟨hcfg, hout, hcount⟩ := regulateStage_measure_keeps s
  rw [hcfg, hout, hcount] at hc
  obtain ⟨hidle, -⟩ | ⟨-, -, hle, he⟩ | ⟨-, -, hgt, he⟩ := hc
  · simp [hon, hmode] at hidle
  · exact .inl (by simp [ticked, he, hle])
  · refine .inr ⟨hgt, ?_, by simp [ticked, he, hon]⟩
    simp only [ticked, he, answered_st, BitVec.toNat_ofNat]
    omega

/-- Settles O29: a run is enabled and Timed or it is not, with the countdown and output of each from its lemma. -/
theorem tickCountsDown : Obligations.TickCountsDown := by
  unfold Obligations.TickCountsDown
  intro s t h
  obtain rfl := eq_ticked_of_exec h
  refine ⟨fun hon hmode => ?_, ticked_of_untimed⟩
  obtain ⟨hle, hcount, hout⟩ | ⟨hgt, hcount, hout⟩ := ticked_of_timed hon hmode
  · exact ⟨by rw [hcount]; exact (Nat.sub_eq_zero_of_le hle).symm, by simp [hout, hle]⟩
  · exact ⟨hcount, by simp [hout, hgt]⟩

/-! ### The events of a tick -/

/-- The loop writes the potentiometer exactly when it moves: one step up or down is another 8-bit position. -/
theorem regulateStage_log (s : State) :
    (regulateStage s).log = s.log ++
      if (regulateStage s).st.actuatorPosition = s.st.actuatorPosition then []
      else [.potWrite (regulateStage s).st.actuatorPosition] := by
  obtain h | ⟨-, -, v, h, hv⟩ := regulateStage_cases s
  · simp [h]
  · have hlt := s.st.actuatorPosition.isLt
    have hmoved : BitVec.ofNat 8 v ≠ s.st.actuatorPosition := by
      rw [ne_eq, BitVec.toNat_eq, BitVec.toNat_ofNat]
      omega
    simp [h, hmoved]

/-- Whatever MAX_STEP is, the loop emits at most one event, and none with the output off. -/
theorem regulateStage_emits (s : State) : ∃ moved : List OutputEvent, moved.length ≤ 1 ∧
    (s.st.isOutputEnabled = false → moved = []) ∧ (regulateStage s).log = s.log ++ moved := by
  obtain h | ⟨hon, -, v, h, -⟩ := regulateStage_cases s
  · exact ⟨[], by simp, fun _ => rfl, by simp [h]⟩
  · exact ⟨[.potWrite (BitVec.ofNat 8 v)], by simp, fun hoff => by simp [hon] at hoff, by simp [h]⟩

/-- The counting stage emits GEN_OFF exactly when it ends the run. -/
theorem ticked_log (s : State) :
    (ticked s).log = (regulateStage (measure s)).log ++
      if s.st.isOutputEnabled = true ∧ (ticked s).st.isOutputEnabled = false then [.genOff] else [] := by
  obtain ⟨-, h⟩ | ⟨hon, -, -, h⟩ | ⟨hon, -, -, h⟩ := countdownStage_cases (regulateStage (measure s))
  · simp [ticked, h]
  · simp only [regulateStage_keeps, measure_isOutputEnabled] at hon
    simp [ticked, h, hon]
  · simp only [regulateStage_keeps, measure_isOutputEnabled] at hon
    simp [ticked, h, hon]

/-- A word of OP 0x10 is TICK when its other 24 bits are zero, and reserved otherwise (30_encoding.md R93). -/
theorem decode_tick (p : Params) {w : OpWord} (hop : w.extractLsb' 24 8 = 0x10) :
    decode p w = if w ≠ 0x10000000 then .reserved (unselectedCause w) else .operation .tick := by
  rw [ite_not, if_congr (eq_noOperandWord_iff (m := 0x10000000) hop rfl rfl) rfl rfl, decode_eq_fields]
  simp [hop]

/-- Settles O30: the regulating stage's write, then the counting stage's GEN_OFF, and the fields of `ticked_keeps`. -/
theorem tickFrame : Obligations.TickFrame := by
  unfold Obligations.TickFrame
  refine ⟨fun s t _ h => ?_, fun _ _ s hop => performWord_ite (decode_tick s.params hop)⟩
  obtain rfl := eq_ticked_of_exec h
  obtain ⟨hcfg, hparams, hinbox, hsubmitter, hresponses, hstop⟩ := ticked_keeps s
  refine ⟨?_, hcfg, hstop, hparams, hinbox, hsubmitter, hresponses⟩
  rw [ticked_log, regulateStage_log, ticked_actuatorPosition, measure_log,
    measure_actuatorPosition]

/-! ### Runs of ticks -/

/-- `k` ticks go through, and leave what ticking `k` times leaves. -/
theorem execAll_ticks (k : Nat) (s : State) : execAll (List.replicate k .tick) s = .next (ticked^[k] s) := by
  induction k generalizing s with
  | zero => rfl
  | succ k ih =>
    rw [List.replicate_succ, execAll_cons (exec_tick_ticked s), ih, Function.iterate_succ_apply]

/-- A run of ticks keeps configuration and parameters. -/
@[simp] theorem ticks_keep (k : Nat) (s : State) :
    (ticked^[k] s).cfg = s.cfg ∧ (ticked^[k] s).params = s.params := by
  induction k with
  | zero => exact ⟨rfl, rfl⟩
  | succ k ih => simpa [Function.iterate_succ_apply'] using ih

/-- Fewer ticks than a Timed run has left leave it enabled, with those ticks off its countdown. -/
theorem ticks_of_lt_countdown {k : Nat} {s : State} (hon : s.st.isOutputEnabled = true)
    (hmode : s.cfg.runMode = .timed) (hk : k < s.st.runCountdownTicks.toNat) :
    (ticked^[k] s).st.isOutputEnabled = true ∧
    (ticked^[k] s).st.runCountdownTicks.toNat = s.st.runCountdownTicks.toNat - k := by
  induction k with
  | zero => exact ⟨hon, rfl⟩
  | succ k ih =>
    obtain ⟨hon', hcount'⟩ := ih (by omega)
    have hmode' : (ticked^[k] s).cfg.runMode = .timed := by rw [(ticks_keep k s).1, hmode]
    rw [Function.iterate_succ_apply']
    obtain ⟨hle, -⟩ | ⟨-, hcount, hout⟩ := ticked_of_timed hon' hmode'
    · omega
    · exact ⟨hout, by omega⟩

/-- The last tick of a Timed run ends it. -/
theorem ticks_of_eq_countdown {s : State} (hon : s.st.isOutputEnabled = true) (hmode : s.cfg.runMode = .timed)
    {k : Nat} (hk : k + 1 = s.st.runCountdownTicks.toNat) :
    (ticked^[k + 1] s).st.isOutputEnabled = false ∧ (ticked^[k + 1] s).st.runCountdownTicks = 0 := by
  obtain ⟨hon', hcount'⟩ := ticks_of_lt_countdown (k := k) hon hmode (by omega)
  have hmode' : (ticked^[k] s).cfg.runMode = .timed := by rw [(ticks_keep k s).1, hmode]
  rw [Function.iterate_succ_apply']
  obtain ⟨-, hcount, hout⟩ | ⟨hgt, -⟩ := ticked_of_timed hon' hmode'
  · exact ⟨hout, hcount⟩
  · omega

/-- Settles O32: TURNON from Idle loads the countdown with N, which N ticks count down. -/
theorem timedRunLastsItsTicks : Obligations.TimedRunLastsItsTicks := by
  unfold Obligations.TimedRunLastsItsTicks
  intro s noStop off hmode hN
  have hexec := exec_turnon_idle noStop off
  generalize hs : answered .ok 0 (enabledState s) = started at hexec
  have hon : started.st.isOutputEnabled = true := by rw [← hs]; rfl
  have hmode' : started.cfg.runMode = .timed := by rw [← hs]; exact hmode
  have hcount : started.st.runCountdownTicks = s.cfg.runTimerTicks := by rw [← hs]; exact if_pos hmode
  rw [← hcount] at hN ⊢
  refine ⟨fun k hk => ⟨_, (execAll_cons hexec _).trans (execAll_ticks k _), ticks_of_lt_countdown hon hmode' hk⟩, ?_⟩
  obtain ⟨k, hk⟩ := Nat.exists_eq_add_of_le' hN
  refine ⟨_, (execAll_cons hexec _).trans (execAll_ticks _ _), ?_⟩
  rw [hk]
  exact ticks_of_eq_countdown hon hmode' hk.symm

/-! ### The position over a run of ticks (41_tick.md R135) -/

/-- One tick keeps the position within MAX_STEP and moves it by at most one step. -/
theorem ticked_position_near {s : State} (hmax : s.params.maxStep ≤ 255)
    (hpos : s.st.actuatorPosition.toNat ≤ s.params.maxStep) :
    (ticked s).st.actuatorPosition.toNat ≤ s.params.maxStep ∧
    (ticked s).st.actuatorPosition.toNat ≤ s.st.actuatorPosition.toNat + 1 ∧
    s.st.actuatorPosition.toNat ≤ (ticked s).st.actuatorPosition.toNat + 1 := by
  rw [ticked_actuatorPosition]
  obtain h | ⟨-, -, v, h, hv⟩ := regulateStage_cases (measure s) <;> rw [h]
  · exact ⟨hpos, Nat.le_succ _, Nat.le_succ _⟩
  · rw [measure_actuatorPosition, measure_params] at hv
    rw [movePosition_st, toNat_ofNat_position hmax (by omega)]
    omega

theorem ticks_position_near {s : State} (hmax : s.params.maxStep ≤ 255)
    (hpos : s.st.actuatorPosition.toNat ≤ s.params.maxStep) (k : Nat) :
    (ticked^[k] s).st.actuatorPosition.toNat ≤ s.params.maxStep ∧
    (ticked^[k] s).st.actuatorPosition.toNat ≤ s.st.actuatorPosition.toNat + k ∧
    s.st.actuatorPosition.toNat ≤ (ticked^[k] s).st.actuatorPosition.toNat + k := by
  induction k with
  | zero => exact ⟨hpos, le_rfl, le_rfl⟩
  | succ k ih =>
    have hnext := ticked_position_near (s := ticked^[k] s)
    rw [(ticks_keep k s).2] at hnext
    rw [Function.iterate_succ_apply']
    have := hnext hmax ih.1
    omega

/-- Settles O33: a run of ticks goes through, and each of them moves the position by at most one step. -/
theorem positionMovesOneStepPerTick : Obligations.PositionMovesOneStepPerTick := by
  unfold Obligations.PositionMovesOneStepPerTick
  exact fun k s hmax hpos => ⟨_, execAll_ticks k s, ticks_position_near hmax hpos k⟩

/-! ### The no-signal window (41_tick.md R135) -/

/-- Nothing was sampled since the last tick. -/
def NoSample (s : State) : Prop := s.pwm.count = 0 ∧ s.adc.count = 0

theorem noSample_ticked (s : State) : NoSample (ticked s) := by
  simp [NoSample]

/-- Without a sample the measured power and duty are 0. -/
theorem ticked_measured_of_noSample {s : State} (h : NoSample s) :
    (ticked s).st.measuredPowerDeciWatts = 0 ∧ (ticked s).st.measuredDutyCycleDeciPercent = 0 := by
  obtain ⟨hpwm, hadc⟩ := h
  have hsat : satU 16 0 = 0 := by decide
  simp [measure_st, hpwm, hadc, dutyOf, currentOf, powerOf, hsat]

/-- So a loop that wants power takes one step up, until MAX_STEP. -/
theorem ticked_position_of_noSample {s : State} (hmax : s.params.maxStep ≤ 255)
    (hpos : s.st.actuatorPosition.toNat ≤ s.params.maxStep) (hon : s.st.isOutputEnabled = true)
    (hctl : s.cfg.controlMode = .constantFrequency) (hset : 0 < s.cfg.powerDeciWatts.toNat) (h : NoSample s) :
    (ticked s).st.actuatorPosition.toNat = min s.params.maxStep (s.st.actuatorPosition.toNat + 1) := by
  obtain ⟨hpower, hduty⟩ := ticked_measured_of_noSample h
  have hstep := tickRegulates s (ticked s) hmax hpos (exec_tick_ticked s)
  simp only [hpower, hduty, BitVec.ofNat_eq_ofNat, BitVec.toNat_ofNat, Nat.zero_mod, hon, hctl, hset, and_self,
    if_true, Nat.zero_le, true_and, gt_iff_lt, Nat.not_lt_zero, if_false] at hstep
  rw [hstep]
  split <;> omega

theorem ticks_of_noSample {s : State} (hmax : s.params.maxStep ≤ 255)
    (hpos : s.st.actuatorPosition.toNat ≤ s.params.maxStep) (hon : s.st.isOutputEnabled = true)
    (hmode : s.cfg.runMode = .continuous) (hctl : s.cfg.controlMode = .constantFrequency)
    (hset : 0 < s.cfg.powerDeciWatts.toNat) (h : NoSample s) (k : Nat) :
    (ticked^[k] s).st.actuatorPosition.toNat = min s.params.maxStep (s.st.actuatorPosition.toNat + k) ∧
    (ticked^[k] s).st.isOutputEnabled = true ∧ NoSample (ticked^[k] s) := by
  induction k with
  | zero => exact ⟨by simpa using hpos, hon, h⟩
  | succ k ih =>
    obtain ⟨hpos', hon', h'⟩ := ih
    obtain ⟨hcfg, hparams⟩ := ticks_keep k s
    rw [Function.iterate_succ_apply']
    have hstep := ticked_position_of_noSample (s := ticked^[k] s) (by rwa [hparams]) (by rw [hparams]; omega) hon'
      (by rwa [hcfg]) (by rwa [hcfg]) h'
    have hout := (ticked_of_untimed (s := ticked^[k] s) (.inr (by rwa [hcfg]))).2
    exact ⟨by rw [hstep, hparams]; omega, by rw [hout, hon'], noSample_ticked _⟩

/-- Settles O34: each tick leaves an empty window behind, so every next one is a no-signal tick too. -/
theorem noSignalClimbsToMaxStep : Obligations.NoSignalClimbsToMaxStep := by
  unfold Obligations.NoSignalClimbsToMaxStep
  intro k s hmax hpos hon hmode hctl hset hpwm hadc
  obtain ⟨hposition, hout, -⟩ := ticks_of_noSample hmax hpos hon hmode hctl hset ⟨hpwm, hadc⟩ k
  exact ⟨_, execAll_ticks k s, hposition, hout⟩

end Sys2Proof.Machine
end

section
/-! SUPPORT. The 64-bit datapath of 41_tick.md R132: an operand below 2^63 is an exact number, products, quotients and
differences of such operands are the integers' own, and so the datapath computes what TICK stores. -/

namespace Sys2Proof.Machine

/-! ### 64-bit operands that are exact numbers -/

/-- A 64-bit word that is the number `n`, with the sign bit clear. -/
def IsExact (x : BitVec 64) (n : Nat) : Prop := x.toNat = n ∧ n < 2 ^ 63

namespace IsExact

variable {x y : BitVec 64} {a b : Nat}

theorem of_word64 (h : a < 2 ^ 63) : IsExact (word64 a) a := ⟨word64_toNat (by omega), h⟩

theorem of_setWidth {n : Nat} (hn : n ≤ 63) (v : BitVec n) : IsExact (v.setWidth 64) v.toNat :=
  ⟨BitVec.toNat_setWidth_of_le (by omega), v.isLt.trans_le (Nat.pow_le_pow_right (by omega) hn)⟩

theorem toInt_eq (hx : IsExact x a) : x.toInt = a := by
  obtain ⟨rfl, hlt⟩ := hx
  exact BitVec.toInt_eq_toNat_of_lt (by omega)

theorem msb_eq (hx : IsExact x a) : x.msb = false := by
  obtain ⟨rfl, hlt⟩ := hx
  exact BitVec.msb_eq_false_iff_two_mul_lt.mpr (by omega)

/-- A product below 2^63 does not wrap. -/
theorem mul (hx : IsExact x a) (hy : IsExact y b) (h : a * b < 2 ^ 63) : IsExact (x * y) (a * b) := by
  obtain ⟨rfl, -⟩ := hx
  obtain ⟨rfl, -⟩ := hy
  exact ⟨BitVec.toNat_mul_of_lt (by omega), h⟩

/-- A truncating quotient of operands that are not negative is the natural numbers' quotient. -/
theorem sdiv (hx : IsExact x a) (hy : IsExact y b) : IsExact (x.sdiv y) (a / b) := by
  have he : x.sdiv y = x / y := by
    rw [BitVec.sdiv_eq, hx.msb_eq, hy.msb_eq]
    rfl
  obtain ⟨rfl, hlt⟩ := hx
  obtain ⟨rfl, -⟩ := hy
  exact ⟨by rw [he, BitVec.toNat_udiv], (Nat.div_le_self _ _).trans_lt hlt⟩

/-- A difference of operands below 2^63 is exact, whatever its sign. -/
theorem toInt_sub (hx : IsExact x a) (hy : IsExact y b) : (x - y).toInt = (a : Int) - b := by
  rw [BitVec.toInt_sub, hx.toInt_eq, hy.toInt_eq]
  obtain ⟨-, ha⟩ := hx
  obtain ⟨-, hb⟩ := hy
  exact Int.bmod_eq_of_le_mul_two (by omega) (by omega)

end IsExact

/-! ### The bounds of the intermediates (41_tick.md R132) -/

section Bounds

variable {s : State} (h : s.Inv)
include h

theorem cpuClock_mul_count_lt : s.params.cpuClockHz * s.pwm.count.toNat < 2 ^ 32 * 2 ^ 16 := by
  obtain ⟨⟨-, hclock⟩, -⟩ := h.legal.1
  exact Nat.mul_lt_mul'' hclock s.pwm.count.isLt

omit h in
theorem onSum_mul_lt (s : State) : s.pwm.onSum.toNat * 1000 < 2 ^ 32 * 2 ^ 10 :=
  Nat.mul_lt_mul'' s.pwm.onSum.isLt (by omega)

/-- A window whose count has not saturated averages at most 65535; one that has divides 32 bits by 65535. -/
theorem average_lt : s.adc.sum.toNat / s.adc.count.toNat < 2 ^ 17 := by
  have hsum := s.adc.sum.isLt
  have hcount := s.adc.count.isLt
  obtain h0 | hpos := Nat.eq_zero_or_pos s.adc.count.toNat
  · simp [h0]
  · rw [Nat.div_lt_iff_lt_mul hpos]
    have := h.sampleSum
    omega

theorem average_mul_fullScale_lt :
    s.adc.sum.toNat / s.adc.count.toNat * s.params.fullScaleVoltage < 2 ^ 17 * 2 ^ 32 := by
  obtain ⟨-, -, -, -, -, -, hfull, -⟩ := h.legal.1
  exact Nat.mul_lt_mul'' (average_lt h) hfull

theorem currentOf_natAbs_lt : (currentOf s.params s.adc.sum.toNat s.adc.count.toNat).natAbs < 2 ^ 50 := by
  obtain ⟨-, -, -, -, -, -, -, hmid, -⟩ := h.legal.1
  have hvolt := (Nat.div_le_self _ s.params.adcFullScale).trans_lt (average_mul_fullScale_lt h)
  unfold currentOf
  dsimp only
  generalize s.adc.sum.toNat / s.adc.count.toNat * s.params.fullScaleVoltage / s.params.adcFullScale = volt at hvolt ⊢
  split
  · decide
  · split <;> omega

/-- The stored current has 16 bits, RATED_BUS_VOLTAGE too, and the stored duty is at most 1000. -/
theorem power_product_lt :
    s.st.measuredCurrentDeciAmps.toNat * s.params.ratedBusVoltage * s.st.measuredDutyCycleDeciPercent.toNat
      < 2 ^ 16 * 2 ^ 16 * 2 ^ 10 := by
  obtain ⟨-, -, -, -, -, -, -, -, hrated, -⟩ := h.legal.1
  have hduty := h.duty
  exact Nat.mul_lt_mul'' (Nat.mul_lt_mul'' s.st.measuredCurrentDeciAmps.isLt (by omega)) (by omega)

/-! ### The datapath's values -/

theorem frequency64_toInt :
    (frequency64 s).toInt = frequencyOf s.params s.pwm.periodSum.toNat s.pwm.count.toNat := by
  have hproduct := cpuClock_mul_count_lt h
  obtain ⟨⟨-, hclock⟩, -⟩ := h.legal.1
  rw [frequencyOf_toNat, frequency64]
  split
  · rfl
  · exact (((IsExact.of_word64 (by omega)).mul (.of_setWidth (by omega) _) (by omega)).sdiv
      (.of_setWidth (by omega) _)).toInt_eq

omit h in
theorem duty64_toInt (s : State) :
    (duty64 s).toInt = dutyOf s.pwm.onSum.toNat s.pwm.periodSum.toNat s.pwm.count.toNat := by
  have hproduct := onSum_mul_lt s
  rw [dutyOf_toNat, duty64]
  split
  · rfl
  · exact (((IsExact.of_setWidth (by omega) _).mul (.of_word64 (by omega)) (by omega)).sdiv
      (.of_setWidth (by omega) _)).toInt_eq

theorem volt64_isExact : IsExact (volt64 s)
    (s.adc.sum.toNat / s.adc.count.toNat * s.params.fullScaleVoltage / s.params.adcFullScale) := by
  have hproduct := average_mul_fullScale_lt h
  obtain ⟨-, -, -, -, -, ⟨-, hscale⟩, hfull, -⟩ := h.legal.1
  have haverage : IsExact (average64 s) (s.adc.sum.toNat / s.adc.count.toNat) :=
    (IsExact.of_setWidth (by omega) _).sdiv (.of_setWidth (by omega) _)
  exact (haverage.mul (.of_word64 (by omega)) (by omega)).sdiv (.of_word64 (by omega))

theorem current64_toInt : (current64 s).toInt = currentOf s.params s.adc.sum.toNat s.adc.count.toNat := by
  have hvolt := volt64_isExact h
  obtain ⟨-, -, -, -, -, -, -, hmid, -⟩ := h.legal.1
  have hmid64 : IsExact (word64 s.params.midScaleVoltage) s.params.midScaleVoltage := .of_word64 (by omega)
  rw [currentOf_toNat, current64]
  split
  · rfl
  · dsimp only
    split
    · exact hmid64.toInt_sub hvolt
    · exact hvolt.toInt_sub hmid64

theorem power64_toInt :
    (power64 s.params s.st.measuredCurrentDeciAmps s.st.measuredDutyCycleDeciPercent).toInt
      = powerOf s.params s.st.measuredCurrentDeciAmps s.st.measuredDutyCycleDeciPercent := by
  have hproduct := power_product_lt h
  obtain ⟨-, -, -, -, -, -, -, -, hrated, -⟩ := h.legal.1
  have hfirst : s.st.measuredCurrentDeciAmps.toNat * s.params.ratedBusVoltage < 2 ^ 16 * 2 ^ 16 :=
    Nat.mul_lt_mul'' s.st.measuredCurrentDeciAmps.isLt (by omega)
  have hcurrent := IsExact.of_setWidth (by omega) s.st.measuredCurrentDeciAmps
  have hduty := IsExact.of_setWidth (by omega) s.st.measuredDutyCycleDeciPercent
  exact (((hcurrent.mul (.of_word64 (by omega)) (by omega)).mul hduty (by omega)).sdiv
    (.of_word64 (by omega))).toInt_eq

end Bounds

/-- Settles O31: each value of the datapath is the integer of the model's formula, so narrowing it gives what `measure`
stores; the state after the tick meets the invariant too, which bounds the stored duty. -/
theorem reducerFitsFiftyBits : Obligations.ReducerFitsFiftyBits := by
  unfold Obligations.ReducerFitsFiftyBits
  intro s h
  have hafter : (ticked s).Inv := Effect.inv .tick h
  have hpower := power64_toInt hafter
  have hproduct := power_product_lt hafter
  obtain ⟨hmfreq, hmduty, hmcurrent, hmpower⟩ := ticked_measured s
  obtain ⟨-, hparams, -⟩ := ticked_keeps s
  rw [hparams] at hpower hproduct
  refine ⟨ticked s, exec_tick_ticked s, ?_, ?_, ?_, ?_, frequency64_toInt h, duty64_toInt s, current64_toInt h, hpower,
    cpuClock_mul_count_lt h, onSum_mul_lt s, average_lt h, average_mul_fullScale_lt h, currentOf_natAbs_lt h, hproduct⟩
  · rw [narrow64_eq, frequency64_toInt h, hmfreq, measure_st]
  · rw [narrow64_eq, duty64_toInt, hmduty, measure_st]
  · rw [narrow64_eq, current64_toInt h, hmcurrent, measure_st]
  · rw [narrow64_eq, hpower, hmpower, hmcurrent, hmduty, measure_st]

end Sys2Proof.Machine
end

section
/-! SUPPORT. The operating state (43_state_machine.md): where each command and a tick lead from each state, which
operations enable the output or move EStop, and EStop's dominance over whatever arrives. -/

namespace Sys2Proof.Machine

/-! ### The operating state as a view of the flags (10_state.md R41) -/

theorem opState_eq_eStopped_iff (s : State) : opState s = .eStopped ↔ s.st.isEmergencyStopped = true := by
  unfold opState
  cases s.st.isEmergencyStopped <;> cases s.st.isOutputEnabled <;> simp

theorem opState_eq_idle_iff (s : State) :
    opState s = .idle ↔ s.st.isEmergencyStopped = false ∧ s.st.isOutputEnabled = false := by
  unfold opState
  cases s.st.isEmergencyStopped <;> cases s.st.isOutputEnabled <;> simp

theorem opState_eq_running_iff (s : State) (m : RunMode) : opState s = .running m ↔
    s.st.isEmergencyStopped = false ∧ s.st.isOutputEnabled = true ∧ s.cfg.runMode = m := by
  unfold opState
  cases s.st.isEmergencyStopped <;> cases s.st.isOutputEnabled <;> simp

/-- States with the same flags and run mode are in the same operating state. -/
theorem opState_congr {s t : State} (hstop : t.st.isEmergencyStopped = s.st.isEmergencyStopped)
    (hout : t.st.isOutputEnabled = s.st.isOutputEnabled) (hmode : t.cfg.runMode = s.cfg.runMode) :
    opState t = opState s := by
  rw [opState, opState, hstop, hout, hmode]

/-! ### Where the commands lead (43_state_machine.md R160 to R167) -/

/-- An answer alone leads nowhere and emits nothing. -/
theorem leads_of_answered {i : Instr} {s : State} {code : ResponseCode} {data : Half}
    (h : exec i s = .next (answered code data s)) : Leads i s (opState s) [] :=
  ⟨_, h, rfl, by simp⟩

theorem leads_turnoff (s : State) :
    Leads .turnoff s (if s.st.isEmergencyStopped then .eStopped else .idle) [.genOff] :=
  ⟨_, exec_turnoff s, rfl, rfl⟩

theorem leads_setestop_true (s : State) : Leads (.setestop true) s .eStopped [.genOff] :=
  ⟨_, exec_setestop true s, rfl, rfl⟩

/-- Leaving EStopped shows what the output flag says. -/
theorem leads_setestop_false (s : State) :
    Leads (.setestop false) s (if s.st.isOutputEnabled then .running s.cfg.runMode else .idle) [] :=
  ⟨_, exec_setestop false s, rfl, by simp [setEStop_false]⟩

theorem leads_turnon_idle {s : State} (noStop : s.st.isEmergencyStopped = false)
    (off : s.st.isOutputEnabled = false) :
    Leads .turnon s (.running s.cfg.runMode) [.genOn s.params.waveformKind s.cfg.frequencyHz] := by
  refine ⟨_, exec_turnon_idle noStop off, ?_, rfl⟩
  rw [opState_eq_running_iff]
  exact ⟨noStop, rfl, rfl⟩

/-! ### Where a tick leads (41_tick.md R136) -/

/-- A tick emits at most one event before the counting stage, and none with the output off. -/
theorem ticked_log_moved (s : State) : ∃ moved : List OutputEvent, moved.length ≤ 1 ∧
    (s.st.isOutputEnabled = false → moved = []) ∧ (ticked s).log = s.log ++ moved ++
      if s.st.isOutputEnabled = true ∧ (ticked s).st.isOutputEnabled = false then [.genOff] else [] := by
  obtain ⟨moved, hlen, hoff, hlog⟩ := regulateStage_emits (measure s)
  exact ⟨moved, hlen, hoff, by rw [ticked_log, hlog, measure_log]⟩

/-- A tick that keeps the output flag keeps the operating state. -/
theorem leads_tick_kept {s : State} (hout : (ticked s).st.isOutputEnabled = s.st.isOutputEnabled) :
    ∃ moved : List OutputEvent, moved.length ≤ 1 ∧ (s.st.isOutputEnabled = false → moved = []) ∧
      Leads .tick s (opState s) moved := by
  obtain ⟨moved, hlen, hoff, hlog⟩ := ticked_log_moved s
  obtain ⟨hcfg, -, -, -, -, hstop⟩ := ticked_keeps s
  refine ⟨moved, hlen, hoff, _, exec_tick_ticked s, opState_congr hstop hout (by rw [hcfg]), ?_⟩
  rw [hlog, hout]
  cases s.st.isOutputEnabled <;> simp

/-- With the output off a tick emits nothing. -/
theorem leads_tick_off {s : State} (off : s.st.isOutputEnabled = false) : Leads .tick s (opState s) [] := by
  obtain ⟨moved, -, hoff, hleads⟩ := leads_tick_kept (ticked_of_untimed (.inl off)).2
  rwa [hoff off] at hleads

/-- A tick that turns the output off leads to Idle, with GEN_OFF last. -/
theorem leads_tick_ended {s : State} (noStop : s.st.isEmergencyStopped = false) (on : s.st.isOutputEnabled = true)
    (hout : (ticked s).st.isOutputEnabled = false) :
    ∃ moved : List OutputEvent, moved.length ≤ 1 ∧ Leads .tick s .idle (moved ++ [.genOff]) := by
  obtain ⟨moved, hlen, -, hlog⟩ := ticked_log_moved s
  obtain ⟨-, -, -, -, -, hstop⟩ := ticked_keeps s
  refine ⟨moved, hlen, _, exec_tick_ticked s, ?_, ?_⟩
  · exact (opState_eq_idle_iff _).mpr ⟨hstop.trans noStop, hout⟩
  · simp [hlog, on, hout]

/-- Settles O17: each cell is the lemma of its operation, with the flags of its row put in. -/
theorem transitionTable : Obligations.TransitionTable := by
  unfold Obligations.TransitionTable
  intro s hinv
  have hturnoff := leads_turnoff s
  have hclear := leads_setestop_false s
  refine ⟨fun h => ?_, fun h => ?_, fun m h => ?_, fun h => ?_, fun h hgt => ?_, fun h hle => ?_⟩
  · have stop := (opState_eq_eStopped_iff s).mp h
    have off := hinv stop
    rw [stop, if_pos rfl] at hturnoff
    rw [off, if_neg (by decide)] at hclear
    exact ⟨h ▸ leads_of_answered (exec_turnon_stopped stop), hturnoff, leads_setestop_true s, hclear,
      h ▸ leads_tick_off off⟩
  · obtain ⟨noStop, off⟩ := (opState_eq_idle_iff s).mp h
    rw [noStop, if_neg (by decide)] at hturnoff
    rw [off, if_neg (by decide)] at hclear
    exact ⟨leads_turnon_idle noStop off, hturnoff, leads_setestop_true s, hclear, h ▸ leads_tick_off off⟩
  · obtain ⟨noStop, on, rfl⟩ := (opState_eq_running_iff s m).mp h
    rw [noStop, if_neg (by decide)] at hturnoff
    rw [on, if_pos rfl] at hclear
    exact ⟨h ▸ leads_of_answered (exec_turnon_running noStop on), hturnoff, leads_setestop_true s, hclear⟩
  · obtain ⟨-, -, hmode⟩ := (opState_eq_running_iff s _).mp h
    obtain ⟨moved, hlen, -, hleads⟩ := leads_tick_kept (ticked_of_untimed (s := s) (.inr hmode)).2
    exact ⟨moved, hlen, h ▸ hleads⟩
  · obtain ⟨-, on, hmode⟩ := (opState_eq_running_iff s _).mp h
    obtain ⟨hle, -⟩ | ⟨-, -, hout⟩ := ticked_of_timed on hmode
    · omega
    · obtain ⟨moved, hlen, -, hleads⟩ := leads_tick_kept (hout.trans on.symm)
      exact ⟨moved, hlen, h ▸ hleads⟩
  · obtain ⟨noStop, on, hmode⟩ := (opState_eq_running_iff s _).mp h
    obtain ⟨-, -, hout⟩ | ⟨hgt, -⟩ := ticked_of_timed on hmode
    · exact leads_tick_ended noStop on hout
    · omega

/-! ### Who enables the output -/

/-- An edge enables the output only by asserting a Momentary or Toggle input from Idle. -/
theorem inputAct_enables {action : InputAction} {asserted : Bool} {s : State} (off : s.st.isOutputEnabled = false)
    (on : (inputAct action asserted s).st.isOutputEnabled = true) :
    s.st.isEmergencyStopped = false ∧ (inputAct action asserted s).st.isEmergencyStopped = false ∧
    asserted = true ∧ action ∈ [.momentaryControl, .toggleControl] := by
  obtain h | ⟨ha, hact, noStop, -, h⟩ | ⟨-, h⟩ | ⟨-, -, h⟩ := inputAct_cases action asserted s <;> rw [h] at on ⊢
  · simp [off] at on
  · exact ⟨noStop, noStop, ha, hact⟩
  · simp at on
  · simp [setEStop_true] at on

/-- The effects that enable the output: TURNON, and an assertion edge of a Momentary or Toggle input. -/
theorem Effect.enables {i : Instr} {s t : State} (he : Effect s i t) (off : s.st.isOutputEnabled = false)
    (on : t.st.isOutputEnabled = true) :
    s.st.isEmergencyStopped = false ∧ t.st.isEmergencyStopped = false ∧
    (i = .turnon ∨ ∃ id, i = .inedge id true ∧ (bindingOf s.cfg id).action ∈ [.momentaryControl, .toggleControl]) := by
  cases he with
  | turnon noStop => exact ⟨noStop, noStop, .inl rfl⟩
  | tick =>
    have hout := (ticked_of_untimed (.inl off)).2
    rw [off] at hout
    exact absurd (on.symm.trans hout) (by decide)
  | inedge id asserted =>
    obtain ⟨noStop, noStop', rfl, hact⟩ := inputAct_enables off on
    exact ⟨noStop, noStop', .inr ⟨id, rfl, hact⟩⟩
  | inedgeAnnounced id asserted =>
    obtain ⟨noStop, noStop', rfl, hact⟩ := inputAct_enables off on
    exact ⟨noStop, noStop', .inr ⟨id, rfl, hact⟩⟩
  | setestop value => cases value <;> simp [setEStop_true, setEStop_false, off] at on
  | _ => simp [off] at on

/-- Settles O18: the inversion `Effect.enables`, for each of the two inputs. -/
theorem outputEnabledOnlyByTurnOn : Obligations.OutputEnabledOnlyByTurnOn := by
  unfold Obligations.OutputEnabledOnlyByTurnOn
  intro i s t h off on
  obtain ⟨noStop, noStop', rfl | ⟨id, rfl, hact⟩⟩ := (effect_of_exec h).enables off on
  · exact ⟨noStop, noStop', .inl rfl⟩
  · cases id with
    | input1 => exact ⟨noStop, noStop', .inr (.inl ⟨rfl, hact⟩)⟩
    | input2 => exact ⟨noStop, noStop', .inr (.inr ⟨rfl, hact⟩)⟩

/-! ### Who moves EStop -/

/-- An edge changes EStop only by asserting an EmergencyStop input, which sets it. -/
theorem inputAct_stop (action : InputAction) (asserted : Bool) (s : State) :
    (inputAct action asserted s).st.isEmergencyStopped = s.st.isEmergencyStopped ∨
    (asserted = true ∧ action = .emergencyStop ∧ (inputAct action asserted s).st.isEmergencyStopped = true) := by
  obtain h | ⟨-, -, -, -, h⟩ | ⟨-, h⟩ | ⟨ha, hact, h⟩ := inputAct_cases action asserted s <;> rw [h]
  · exact .inl rfl
  · exact .inl rfl
  · exact .inl rfl
  · exact .inr ⟨ha, hact, rfl⟩

/-- The effects on EStop: SETESTOP writes it, an assertion edge of an EmergencyStop input sets it, nothing else does. -/
theorem Effect.stop_cases {i : Instr} {s t : State} (he : Effect s i t) :
    t.st.isEmergencyStopped = s.st.isEmergencyStopped ∨
    (i = .setestop t.st.isEmergencyStopped) ∨
    (t.st.isEmergencyStopped = true ∧ ∃ id, i = .inedge id true ∧ (bindingOf s.cfg id).action = .emergencyStop) := by
  cases he with
  | setestop value => cases value <;> exact .inr (.inl rfl)
  | tick =>
    obtain ⟨-, -, -, -, -, hstop⟩ := ticked_keeps s
    exact .inl hstop
  | inedge id asserted =>
    obtain h | ⟨rfl, hact, h⟩ := inputAct_stop (bindingOf s.cfg id).action asserted s
    · exact .inl h
    · exact .inr (.inr ⟨h, id, rfl, hact⟩)
  | inedgeAnnounced id asserted =>
    obtain h | ⟨rfl, hact, h⟩ := inputAct_stop (bindingOf s.cfg id).action asserted s
    · exact .inl h
    · exact .inr (.inr ⟨h, id, rfl, hact⟩)
  | _ => exact .inl rfl

/-- EStop is left only by SETESTOP 0. -/
theorem Effect.eq_of_stop_left {i : Instr} {s t : State} (he : Effect s i t) (stop : s.st.isEmergencyStopped = true)
    (noStop : t.st.isEmergencyStopped = false) : i = .setestop false := by
  obtain h | h | ⟨h, -⟩ := he.stop_cases
  · simp [h, stop] at noStop
  · rwa [noStop] at h
  · simp [h] at noStop

/-- Settles O19: the inversion `Effect.stop_cases`, for each of the two inputs. -/
theorem estopEnteredAndLeft : Obligations.EstopEnteredAndLeft := by
  unfold Obligations.EstopEnteredAndLeft
  intro i s t h
  have he := effect_of_exec h
  refine ⟨fun noStop stop => ?_, he.eq_of_stop_left⟩
  obtain hkept | hset | ⟨-, id, rfl, hact⟩ := he.stop_cases
  · simp [hkept, noStop] at stop
  · exact .inl (by rwa [stop] at hset)
  · cases id with
    | input1 => exact .inr (.inl ⟨rfl, hact⟩)
    | input2 => exact .inr (.inr ⟨rfl, hact⟩)

/-! ### EStop's dominance (43_state_machine.md R163) -/

/-- EStopped with the output off. -/
def Stopped (s : State) : Prop := s.st.isEmergencyStopped = true ∧ s.st.isOutputEnabled = false

/-- A SETESTOP 0 has one word only. -/
theorem word_of_decode_clear {p : Params} {w : OpWord} (h : decode p w = .operation (.setestop false)) :
    w = 0x08000000 :=
  (encodeOfDecode p w _ h).1.symm.trans (by decide)

/-- Any stimulus but the word SETESTOP 0 goes through and leaves a stopped machine stopped. -/
theorem perform_stopped {x : Stimulus} {s : State} (h : Stopped s) (hx : ∀ b, x ≠ .operation b 0x08000000) :
    ∃ t, perform x s = .next t ∧ Stopped t := by
  obtain ⟨stop, off⟩ := h
  cases x with
  | reset => exact ⟨_, rfl, by simp [Stopped]⟩
  | operation a w =>
    obtain ⟨i, t, hd, ht, he⟩ | ⟨cause, -, ht⟩ := performWord_effect a w s
    · refine ⟨t, ht, ?_, ?_⟩
      · by_contra hleft
        have hi := he.eq_of_stop_left stop (by simpa using hleft)
        exact hx a (congrArg _ (word_of_decode_clear (hi ▸ hd)))
      · by_contra hon
        obtain ⟨noStop, -⟩ := he.enables off (by simpa using hon)
        exact absurd (stop.symm.trans noStop) (by decide)
    · exact ⟨_, ht, stop, off⟩

theorem performAll_stopped {xs : List Stimulus} {s : State} (h : Stopped s)
    (hxs : ∀ b, Stimulus.operation b 0x08000000 ∉ xs) : ∃ t, performAll xs s = .next t ∧ Stopped t := by
  induction xs generalizing s with
  | nil => exact ⟨s, rfl, h⟩
  | cons x xs ih =>
    obtain ⟨t, ht, hstopped⟩ := perform_stopped h fun b hb => hxs b (hb ▸ List.mem_cons_self)
    rw [performAll, ht]
    exact ih hstopped fun b hb => hxs b (List.mem_cons_of_mem _ hb)

/-- The word SETESTOP 1 stops the machine, in every set of parameters. -/
theorem perform_setestop_word (a : Agent) (s : State) :
    ∃ t, perform (.operation a 0x08010000) s = .next t ∧ Stopped t := by
  have hd : decode s.params 0x08010000 = .operation (.setestop true) :=
    decodeOfEncode s.params (.setestop true) trivial
  exact ⟨_, (performWord_operation hd).trans (exec_setestop true _), rfl, rfl⟩

/-- Settles O20: the word SETESTOP 1 stops the machine, and each later stimulus leaves it stopped, by induction on the
list. -/
theorem estopDominates : Obligations.EstopDominates := by
  unfold Obligations.EstopDominates
  intro s a xs hxs
  obtain ⟨t, ht, hstopped⟩ := perform_setestop_word a s
  obtain ⟨u, hu, stop, off⟩ := performAll_stopped hstopped hxs
  exact ⟨u, by rw [performAll, ht]; exact hu, stop, off⟩

end Sys2Proof.Machine
end

section
/-! SUPPORT. Sequences of samples (40_aggregator.md R110 to R113, R117): what a list of conversions leaves of the ADC's
accumulator, and the three edges of a PWM cycle. -/

namespace Sys2Proof.Machine

/-! ### A window of conversions -/

/-- What `n` conversions with values `values` have left of an accumulator: the decimation counter's remainder, the
saturated count of the factors reached, and, without decimation, the saturated sum. -/
structure Converted (decim : Nat) (values : List Half) (adc adc' : AdcAccumulator) : Prop where
  skip : adc'.skip.toNat = (adc.skip.toNat + values.length) % decim
  count : adc'.count.toNat = min 65535 (adc.count.toNat + (adc.skip.toNat + values.length) / decim)
  sum : decim = 1 → adc'.sum.toNat = min (2 ^ 32 - 1) (adc.sum.toNat + (values.map BitVec.toNat).sum)

/-- No conversion leaves everything as it was. -/
theorem converted_nil {decim : Nat} {adc : AdcAccumulator} (hskip : adc.skip.toNat < decim) :
    Converted decim [] adc adc where
  skip := (Nat.mod_eq_of_lt hskip).symm
  count := by
    have := adc.count.isLt
    simp only [List.length_nil, Nat.add_zero, Nat.div_eq_of_lt hskip]
    omega
  sum := fun _ => by
    have := adc.sum.isLt
    simp only [List.map_nil, List.sum_nil]
    omega

/-- The conversion that reaches the factor is counted, and the others start from 0 again. -/
theorem converted_cons_last {decim : Nat} {value : Half} {values : List Half} {adc adc' : AdcAccumulator}
    (hn : adc.skip.toNat + 1 = decim)
    (h : Converted decim values ⟨addsat adc.sum value.toNat, addsat adc.count 1, 0⟩ adc') :
    Converted decim (value :: values) adc adc' := by
  obtain ⟨hskip, hcount, hsum⟩ := h
  have htotal : adc.skip.toNat + (value :: values).length = values.length + decim := by
    rw [List.length_cons]
    omega
  simp only [BitVec.ofNat_eq_ofNat, BitVec.toNat_ofNat, Nat.zero_mod, Nat.zero_add, addsat_toNat_min]
    at hskip hcount hsum
  refine ⟨?_, ?_, fun hone => ?_⟩
  · rw [hskip, htotal, Nat.add_mod_right]
  · rw [hcount, htotal, Nat.add_div_right _ (by omega)]
    generalize values.length / decim = counted
    omega
  · rw [hsum hone, List.map_cons, List.sum_cons]
    omega

/-- Every other conversion only counts on. -/
theorem converted_cons_skipped {decim : Nat} {value : Half} {values : List Half} {adc adc' : AdcAccumulator}
    (hdecim : decim ≤ 65535) (hskip : adc.skip.toNat < decim) (hn : adc.skip.toNat + 1 ≠ decim)
    (h : Converted decim values { adc with skip := adc.skip + 1 } adc') :
    Converted decim (value :: values) adc adc' := by
  have hnext := (decimate_lt hdecim hskip).2 hn
  rw [decimate_skipped hn] at hnext
  obtain ⟨hskip', hcount, -⟩ := h
  simp only [hnext] at hskip' hcount
  have htotal : adc.skip.toNat + 1 + values.length = adc.skip.toNat + (value :: values).length := by
    rw [List.length_cons]
    omega
  rw [htotal] at hskip' hcount
  exact ⟨hskip', hcount, fun hone => by omega⟩

/-- A list of conversions that fit goes through, restarts the converter after each, and leaves them converted. -/
theorem execAll_adcdone {values : List Half} {s : State} (hdecim : s.params.adcDecim ≤ 65535)
    (hskip : s.adc.skip.toNat < s.params.adcDecim) (hfits : ∀ v ∈ values, v.toNat < 2 ^ s.params.adcBits) :
    ∃ t, execAll (values.map .adcdone) s = .next t ∧ Converted s.params.adcDecim values s.adc t.adc ∧
      t.log = s.log ++ List.replicate values.length .adcRestart := by
  induction values generalizing s with
  | nil => exact ⟨s, rfl, converted_nil hskip, by simp⟩
  | cons value values ih =>
    obtain ⟨hfit, hfits⟩ := List.forall_mem_cons.mp hfits
    have hexec := exec_adcdone hfit
    by_cases hn : s.adc.skip.toNat + 1 = s.params.adcDecim
    · rw [addConversion_last value hn] at hexec
      obtain ⟨t, ht, hconverted, hlog⟩ := ih (s := answered .ok 0 { s with
        adc := ⟨addsat s.adc.sum value.toNat, addsat s.adc.count 1, 0⟩, log := s.log ++ [.adcRestart] })
        hdecim (Nat.zero_lt_of_lt hskip) hfits
      exact ⟨t, (execAll_cons hexec _).trans ht, converted_cons_last hn hconverted,
        by simp [hlog, List.replicate_succ]⟩
    · have hnext := (decimate_lt hdecim hskip).1
      rw [decimate_skipped hn] at hnext
      rw [addConversion_skipped value hn] at hexec
      obtain ⟨t, ht, hconverted, hlog⟩ := ih (s := answered .ok 0 { s with
        adc := { s.adc with skip := s.adc.skip + 1 }, log := s.log ++ [.adcRestart] }) hdecim hnext hfits
      exact ⟨t, (execAll_cons hexec _).trans ht, converted_cons_skipped hdecim hskip hn hconverted,
        by simp [hlog, List.replicate_succ]⟩

/-- Settles O25: by induction on the list, each conversion is the one that reaches the factor or one before it. -/
theorem adcDecimationOverAWindow : Obligations.AdcDecimationOverAWindow := by
  unfold Obligations.AdcDecimationOverAWindow
  intro values s legal hskip hfits
  obtain ⟨-, -, -, ⟨-, hdecim⟩, -⟩ := legal.1
  obtain ⟨t, ht, ⟨hskip', hcount, hsum⟩, hlog⟩ := execAll_adcdone hdecim hskip hfits
  exact ⟨t, ht, hskip', hcount, hlog, hsum⟩

/-! ### Lists of edges, and the three edges of a cycle (30_encoding.md R99) -/

/-- The accumulator after a cycle's three edges: the latches of the first two, and the completed cycle. -/
theorem captureEdge_cycle {p : Params} {pwm : PwmAccumulator} (tf tr1 tr2 : Half) (hphase : pwm.phase = .waitFall)
    (hn : pwm.skip.toNat + 1 = p.pwmDecim) :
    captureEdge p true tr2 (captureEdge p true tr1 (captureEdge p false tf pwm))
      = addCycle p tr2 { pwm with skip := 0, tFall := tf, tRise1 := tr1, phase := .waitRise2 } := by
  rw [captureEdge_waitFall_last hphase hn, captureEdge_waitRise1_rising (ts := tr1) (by rfl),
    captureEdge_waitRise2_rising rfl]

/-- A list of edges with legal timestamps goes through the edge machine one by one, and changes nothing else but the
answers. -/
theorem execAll_pwmedges (edges : List (Bool × Half)) {s : State}
    (hfits : ∀ e ∈ edges, e.2.toNat < 2 ^ s.params.tsWidth) :
    ∃ t, execAll (edges.map fun e => .pwmedge e.1 e.2) s = .next t ∧
      t.pwm = edges.foldl (fun pwm e => captureEdge s.params e.1 e.2 pwm) s.pwm ∧
      t.adc = s.adc ∧ t.st = s.st ∧ t.cfg = s.cfg ∧ t.log = s.log := by
  induction edges generalizing s with
  | nil => exact ⟨s, rfl, rfl, rfl, rfl, rfl, rfl⟩
  | cons e edges ih =>
    obtain ⟨hfit, hfits⟩ := List.forall_mem_cons.mp hfits
    obtain ⟨t, ht, hkept⟩ := ih (s := answered .ok 0 { s with pwm := captureEdge s.params e.1 e.2 s.pwm }) hfits
    exact ⟨t, (execAll_cons (exec_pwmedge hfit) _).trans ht, hkept⟩

/-- Settles O26: the three edges run through the three phases, and the completed cycle's sums saturate. -/
theorem pwmCycleCountsOne : Obligations.PwmCycleCountsOne := by
  unfold Obligations.PwmCycleCountsOne
  intro tf tr1 tr2 s hphase hn htf htr1 htr2
  obtain ⟨t, ht, hpwm, hadc, hst, hcfg, hlog⟩ :=
    execAll_pwmedges (s := s) [(false, tf), (true, tr1), (true, tr2)] (by simp [htf, htr1, htr2])
  simp only [List.foldl_cons, List.foldl_nil] at hpwm
  rw [captureEdge_cycle tf tr1 tr2 hphase hn] at hpwm
  refine ⟨t, ht, ?_, ?_, by rw [hpwm]; rfl, by rw [hpwm]; rfl, by rw [hpwm]; rfl, by rw [hpwm]; rfl, hadc, hst, hcfg,
    hlog⟩
  · rw [hpwm]
    exact addsat_toNat_min _ _
  · rw [hpwm, ← subMod_toInt]
    simp only [addCycle, addsat_toNat_min]
    omega

end Sys2Proof.Machine
end

section
/-! SUPPORT. The accumulators as functions of the parameters, the operation and the accumulators before it
(10_state.md R43 to R45), and what follows: who writes them, and that windows are independent (20_memory.md R69,
R71). -/

namespace Sys2Proof.Machine

/-! ### What an operation leaves of the accumulators -/

/-- The PWM accumulator after an operation. -/
def pwmAfter (p : Params) (i : Instr) (pwm : PwmAccumulator) : PwmAccumulator :=
  match i with
  | .pwmedge rising ts => if ts.toNat < 2 ^ p.tsWidth then captureEdge p rising ts pwm else pwm
  | .tick => { pwm with onSum := 0, periodSum := 0, count := 0 }
  | .setfreq _ | .setpwr _ | .setrun _ _ | .setctl _ | .setbind _ _ _ | .turnon | .turnoff | .setestop _ | .setpos _
  | .readreg _ | .adcdone _ | .inedge _ _ => pwm

/-- The ADC accumulator after an operation. -/
def adcAfter (p : Params) (i : Instr) (adc : AdcAccumulator) : AdcAccumulator :=
  match i with
  | .adcdone value => if value.toNat < 2 ^ p.adcBits then addConversion p value adc else adc
  | .tick => { adc with sum := 0, count := 0 }
  | .setfreq _ | .setpwr _ | .setrun _ _ | .setctl _ | .setbind _ _ _ | .turnon | .turnoff | .setestop _ | .setpos _
  | .readreg _ | .pwmedge _ _ | .inedge _ _ => adc

@[simp] theorem enabledState_accumulators (s : State) :
    (enabledState s).pwm = s.pwm ∧ (enabledState s).adc = s.adc := ⟨rfl, rfl⟩

@[simp] theorem setEStop_accumulators (value : Bool) (s : State) :
    (setEStop value s).pwm = s.pwm ∧ (setEStop value s).adc = s.adc := by
  cases value <;> exact ⟨rfl, rfl⟩

@[simp] theorem inputAct_accumulators (action : InputAction) (asserted : Bool) (s : State) :
    (inputAct action asserted s).pwm = s.pwm ∧ (inputAct action asserted s).adc = s.adc := by
  obtain h | ⟨-, -, -, -, h⟩ | ⟨-, h⟩ | ⟨-, -, h⟩ := inputAct_cases action asserted s <;> simp [h]

theorem exec_pwmedge_refused {rising : Bool} {ts : Half} {s : State} (wide : ¬ ts.toNat < 2 ^ s.params.tsWidth) :
    exec (.pwmedge rising ts) s = .next (answered .errReserved 0 s) :=
  if_neg wide

theorem exec_adcdone_refused {value : Half} {s : State} (wide : ¬ value.toNat < 2 ^ s.params.adcBits) :
    exec (.adcdone value) s = .next (answered .errReserved 0 s) :=
  if_neg wide

/-- Every operation leaves `pwmAfter` and `adcAfter`, whatever else the state holds. -/
theorem exec_accumulators {i : Instr} {s t : State} (h : exec i s = .next t) :
    t.pwm = pwmAfter s.params i s.pwm ∧ t.adc = adcAfter s.params i s.adc := by
  cases i
  case pwmedge rising ts =>
    by_cases fits : ts.toNat < 2 ^ s.params.tsWidth
    · obtain rfl := Host.Outcome.next.inj ((exec_pwmedge fits).symm.trans h)
      simp [pwmAfter, adcAfter, fits]
    · obtain rfl := Host.Outcome.next.inj ((exec_pwmedge_refused fits).symm.trans h)
      simp [pwmAfter, adcAfter, fits]
  case adcdone value =>
    by_cases fits : value.toNat < 2 ^ s.params.adcBits
    · obtain rfl := Host.Outcome.next.inj ((exec_adcdone fits).symm.trans h)
      simp [pwmAfter, adcAfter, fits]
    · obtain rfl := Host.Outcome.next.inj ((exec_adcdone_refused fits).symm.trans h)
      simp [pwmAfter, adcAfter, fits]
  case tick =>
    obtain rfl := eq_ticked_of_exec h
    exact ticked_accumulators s
  all_goals cases effect_of_exec h <;> simp [pwmAfter, adcAfter]

/-! ### Who writes the accumulators -/

theorem writer_of_pwmAfter_ne {p : Params} {i : Instr} {pwm : PwmAccumulator} (h : pwmAfter p i pwm ≠ pwm) :
    i = .tick ∨ ∃ rising ts, i = .pwmedge rising ts := by
  cases i with
  | tick => exact .inl rfl
  | pwmedge rising ts => exact .inr ⟨rising, ts, rfl⟩
  | _ => exact absurd rfl h

theorem writer_of_adcAfter_ne {p : Params} {i : Instr} {adc : AdcAccumulator} (h : adcAfter p i adc ≠ adc) :
    i = .tick ∨ ∃ value, i = .adcdone value := by
  cases i with
  | tick => exact .inl rfl
  | adcdone value => exact .inr ⟨value, rfl⟩
  | _ => exact absurd rfl h

/-- Settles O39: the accumulators are `pwmAfter` and `adcAfter`, which only their producer and TICK change, and TICK
writes the sums and counts only. -/
theorem accumulatorWriters : Obligations.AccumulatorWriters := by
  unfold Obligations.AccumulatorWriters
  intro i s t h
  obtain ⟨hpwm, hadc⟩ := exec_accumulators h
  rw [hpwm, hadc]
  refine ⟨writer_of_pwmAfter_ne, writer_of_adcAfter_ne, ?_⟩
  rintro rfl
  exact ⟨rfl, rfl, rfl, rfl, rfl⟩

/-! ### Windows are independent -/

/-- Two machines with the same parameters that have gathered the same window, whatever else they hold. -/
def SameWindow (s1 s2 : State) : Prop := s1.params = s2.params ∧ s1.pwm = s2.pwm ∧ s1.adc = s2.adc

/-- The same operation leaves the same window. -/
theorem exec_sameWindow (i : Instr) {s1 s2 : State} (h : SameWindow s1 s2) :
    ∃ t1 t2, exec i s1 = .next t1 ∧ exec i s2 = .next t2 ∧ SameWindow t1 t2 := by
  obtain ⟨hparams, hpwm, hadc⟩ := h
  obtain ⟨t1, h1, he1⟩ := exec_effect i s1
  obtain ⟨t2, h2, he2⟩ := exec_effect i s2
  obtain ⟨hpwm1, hadc1⟩ := exec_accumulators h1
  obtain ⟨hpwm2, hadc2⟩ := exec_accumulators h2
  refine ⟨t1, t2, h1, h2, ?_, ?_, ?_⟩
  · rw [he1.params_eq, he2.params_eq, hparams]
  · rw [hpwm1, hpwm2, hparams, hpwm]
  · rw [hadc1, hadc2, hparams, hadc]

theorem execAll_sameWindow (is : List Instr) {s1 s2 : State} (h : SameWindow s1 s2) :
    ∃ t1 t2, execAll is s1 = .next t1 ∧ execAll is s2 = .next t2 ∧ SameWindow t1 t2 := by
  induction is generalizing s1 s2 with
  | nil => exact ⟨s1, s2, rfl, rfl, h⟩
  | cons i is ih =>
    obtain ⟨u1, u2, h1, h2, hsame⟩ := exec_sameWindow i h
    rw [execAll_cons h1, execAll_cons h2]
    exact ih hsame

/-- A list that goes through is followed by the next list, in the state it leaves. -/
theorem execAll_append {is : List Instr} {s t : State} (h : execAll is s = .next t) (js : List Instr) :
    execAll (is ++ js) s = execAll js t := by
  induction is generalizing s with
  | nil =>
    obtain rfl := Host.Outcome.next.inj h
    rfl
  | cons i is ih =>
    obtain ⟨u, hu, -⟩ := exec_effect i s
    rw [execAll_cons hu] at h
    rw [List.cons_append, execAll_cons hu, ih h]

/-- A tick measures from the window and the parameters only. -/
theorem ticked_measured_congr {s1 s2 : State} (h : SameWindow s1 s2) :
    (ticked s1).st.measuredFrequencyHz = (ticked s2).st.measuredFrequencyHz ∧
    (ticked s1).st.measuredDutyCycleDeciPercent = (ticked s2).st.measuredDutyCycleDeciPercent ∧
    (ticked s1).st.measuredCurrentDeciAmps = (ticked s2).st.measuredCurrentDeciAmps ∧
    (ticked s1).st.measuredPowerDeciWatts = (ticked s2).st.measuredPowerDeciWatts := by
  obtain ⟨hparams, hpwm, hadc⟩ := h
  simp only [ticked_measured, measure_st, hparams, hpwm, hadc, and_self]

/-- Settles O35: the first tick drains both machines to the same window, the operations keep it the same, and the second
tick measures from it. -/
theorem windowsAreIndependent : Obligations.WindowsAreIndependent := by
  unfold Obligations.WindowsAreIndependent
  intro is s1 s2 hparams hphase hskip htFall htRise1 hadcSkip
  have hdrained : SameWindow (ticked s1) (ticked s2) :=
    ⟨by simp [hparams], by simp [hphase, hskip, htFall, htRise1], by simp [hadcSkip]⟩
  obtain ⟨t1, t2, h1, h2, hsame⟩ := execAll_sameWindow is hdrained
  refine ⟨ticked t1, ticked t2, ?_, ?_, ticked_measured_congr hsame⟩
  · rw [execAll_cons (exec_tick_ticked s1), execAll_append h1, execAll_singleton, exec_tick_ticked]
  · rw [execAll_cons (exec_tick_ticked s2), execAll_append h2, execAll_singleton, exec_tick_ticked]

end Sys2Proof.Machine
end

section
/-! SUPPORT. Responses (60_exceptions.md): the code and data of every operation, and that nothing of what an operation
does depends on the model's own fields (inbox, submitter, answers given), nor, but for TICK, on the accumulators. -/

namespace Sys2Proof.Machine

/-! ### The response of an operation (60_exceptions.md R221) -/

/-- The code an operation is answered with in a state. -/
def responseCode (s : State) : Instr → ResponseCode
  | .setfreq hz => if hz.toNat < s.params.minFreq ∨ s.params.maxFreq < hz.toNat then .errRange else .ok
  | .setpwr dw => if s.params.maxPower < dw.toNat then .errRange else .ok
  | .setrun mode ticks =>
    if mode = .timed ∧ (ticks.toNat < s.params.runTicksMin ∨ s.params.runTicksMax < ticks.toNat) then .errRange
    else .ok
  | .turnon => if s.st.isEmergencyStopped then .errEstop else .ok
  | .setpos _ => if s.params.hasDebugSetpos = false then .errDisabled else .ok
  | .pwmedge _ ts => if ¬ ts.toNat < 2 ^ s.params.tsWidth then .errReserved else .ok
  | .adcdone value => if ¬ value.toNat < 2 ^ s.params.adcBits then .errReserved else .ok
  | .setctl _ | .setbind _ _ _ | .turnoff | .setestop _ | .readreg _ | .tick | .inedge _ _ => .ok

/-- The data: a READREG's value, and 0 for every other operation. -/
def responseData (s : State) : Instr → Half
  | .readreg idx => regRead s idx
  | _ => 0

/-! ### The fields that an operation does not act by -/

/-- The state with the accumulators and the model's own fields replaced. -/
def reseat (pwm : PwmAccumulator) (adc : AdcAccumulator) (inbox : List Stimulus) (submitter : Agent)
    (responses : List Response) (s : State) : State :=
  { s with pwm := pwm, adc := adc, inbox := inbox, submitter := submitter, responses := responses }

/-- TurnOn writes only from Idle. -/
theorem turnOn_snd (s : State) : (turnOn s).2 =
    if s.st.isEmergencyStopped = true ∨ s.st.isOutputEnabled = true then s else enabledState s := by
  obtain ⟨he, h⟩ | ⟨-, ho, h⟩ | ⟨he, ho, h⟩ := turnOn_cases s
  · rw [h, if_pos (.inl he)]
  · rw [h, if_pos (.inr ho)]
  · rw [h, if_neg (by simp [he, ho])]

section Reseat

variable (pwm : PwmAccumulator) (adc : AdcAccumulator) (inbox : List Stimulus) (submitter : Agent)
  (responses : List Response)

theorem turnOn_reseat (s : State) : (turnOn (reseat pwm adc inbox submitter responses s)).2
    = reseat pwm adc inbox submitter responses (turnOn s).2 := by
  rw [turnOn_snd, turnOn_snd, apply_ite (reseat pwm adc inbox submitter responses)]
  rfl

/-- What an edge's action does to configuration, status and log it does whatever the replaced fields hold. -/
theorem inputAct_reseat (action : InputAction) (asserted : Bool) (s : State) :
    inputAct action asserted (reseat pwm adc inbox submitter responses s)
      = reseat pwm adc inbox submitter responses (inputAct action asserted s) := by
  unfold inputAct
  rw [turnOn_reseat]
  cases action with
  | unused => rfl
  | momentaryControl => cases asserted <;> rfl
  | toggleControl =>
    cases asserted with
    | false => rfl
    | true => exact (apply_ite (reseat pwm adc inbox submitter responses) (s.st.isOutputEnabled = true) (turnOff s)
      (turnOn s).2).symm
  | emergencyStop => cases asserted <;> rfl

end Reseat

/-- An operation other than TICK does the same to configuration, status and log, and answers the same, whatever the
replaced fields hold; a rejected one does nothing. -/
theorem exec_reseat {i : Instr} (hi : i ≠ .tick) (s : State) :
    ∃ u : State, (responseCode s i ≠ .ok → u = s) ∧ ∀ pwm adc inbox submitter responses,
      exec i (reseat pwm adc inbox submitter responses s) = .next (answered (responseCode s i) (responseData s i)
        (reseat (pwmAfter s.params i pwm) (adcAfter s.params i adc) inbox submitter responses u)) := by
  cases i with
  | setfreq hz =>
    by_cases out : hz.toNat < s.params.minFreq ∨ s.params.maxFreq < hz.toNat
    · simp only [responseCode, if_pos out]
      exact ⟨s, fun _ => rfl, fun _ _ _ _ _ => exec_setfreq_refused out⟩
    · simp only [responseCode, if_neg out]
      obtain ⟨lo, hi⟩ := not_or.mp out
      exact ⟨{ s with cfg := { s.cfg with frequencyHz := hz }, log := s.log ++ [.genFreqWrite hz] },
        fun h => absurd rfl h, fun _ _ _ _ _ => exec_setfreq_accepted (not_lt.mp lo) (not_lt.mp hi)⟩
  | setpwr dw =>
    by_cases out : s.params.maxPower < dw.toNat
    · simp only [responseCode, if_pos out]
      exact ⟨s, fun _ => rfl, fun _ _ _ _ _ => exec_setpwr_refused out⟩
    · simp only [responseCode, if_neg out]
      exact ⟨{ s with cfg := { s.cfg with powerDeciWatts := dw } },
        fun h => absurd rfl h, fun _ _ _ _ _ => exec_setpwr_accepted (not_lt.mp out)⟩
  | setrun mode ticks =>
    cases mode with
    | continuous =>
      exact ⟨{ s with cfg := { s.cfg with runMode := .continuous } }, fun h => absurd rfl h, fun _ _ _ _ _ => rfl⟩
    | timed =>
      by_cases out : ticks.toNat < s.params.runTicksMin ∨ s.params.runTicksMax < ticks.toNat
      · simp only [responseCode, true_and, if_pos out]
        exact ⟨s, fun _ => rfl, fun _ _ _ _ _ => exec_setrun_timed_refused out⟩
      · simp only [responseCode, true_and, if_neg out]
        obtain ⟨lo, hi⟩ := not_or.mp out
        exact ⟨{ s with cfg := { s.cfg with runMode := .timed, runTimerTicks := ticks } },
          fun h => absurd rfl h, fun _ _ _ _ _ => exec_setrun_timed_accepted (not_lt.mp lo) (not_lt.mp hi)⟩
  | setctl mode =>
    exact ⟨{ s with cfg := { s.cfg with controlMode := mode } }, fun h => absurd rfl h, fun _ _ _ _ _ => rfl⟩
  | setbind id action announce =>
    exact ⟨{ s with cfg := withBinding s.cfg id ⟨action, announce⟩ }, fun h => absurd rfl h, fun _ _ _ _ _ => rfl⟩
  | turnon =>
    cases hstop : s.st.isEmergencyStopped with
    | true =>
      simp only [responseCode, hstop, if_true]
      exact ⟨s, fun _ => rfl, fun _ _ _ _ _ => exec_turnon_stopped hstop⟩
    | false =>
      simp only [responseCode, hstop, Bool.false_eq_true, if_false]
      cases hout : s.st.isOutputEnabled with
      | true => exact ⟨s, fun _ => rfl, fun _ _ _ _ _ => exec_turnon_running hstop hout⟩
      | false => exact ⟨enabledState s, fun h => absurd rfl h, fun _ _ _ _ _ => exec_turnon_idle hstop hout⟩
  | turnoff => exact ⟨turnOff s, fun h => absurd rfl h, fun _ _ _ _ _ => rfl⟩
  | setestop value =>
    refine ⟨setEStop value s, fun h => absurd rfl h, fun _ _ _ _ _ => ?_⟩
    cases value <;> rfl
  | setpos step =>
    cases hdebug : s.params.hasDebugSetpos with
    | true =>
      simp only [responseCode, hdebug, reduceCtorEq, if_false]
      exact ⟨movePosition (min step.toNat s.params.maxStep) s, fun h => absurd rfl h,
        fun pwm adc inbox submitter responses =>
        exec_setpos_enabled (s := reseat pwm adc inbox submitter responses s) hdebug step⟩
    | false =>
      simp only [responseCode, hdebug, if_true]
      exact ⟨s, fun _ => rfl, fun pwm adc inbox submitter responses =>
        exec_setpos_disabled (s := reseat pwm adc inbox submitter responses s) hdebug step⟩
  | readreg idx => exact ⟨s, fun _ => rfl, fun _ _ _ _ _ => rfl⟩
  | tick => exact absurd rfl hi
  | pwmedge rising ts =>
    by_cases fits : ts.toNat < 2 ^ s.params.tsWidth
    · simp only [responseCode, pwmAfter, if_pos fits, if_neg (not_not.mpr fits)]
      exact ⟨s, fun _ => rfl, fun _ _ _ _ _ => exec_pwmedge fits⟩
    · simp only [responseCode, pwmAfter, if_neg fits, if_pos fits]
      exact ⟨s, fun _ => rfl, fun _ _ _ _ _ => exec_pwmedge_refused fits⟩
  | adcdone value =>
    by_cases fits : value.toNat < 2 ^ s.params.adcBits
    · simp only [responseCode, adcAfter, if_pos fits, if_neg (not_not.mpr fits)]
      exact ⟨{ s with log := s.log ++ [.adcRestart] }, fun h => absurd rfl h, fun _ _ _ _ _ => exec_adcdone fits⟩
    · simp only [responseCode, adcAfter, if_neg fits, if_pos fits]
      exact ⟨s, fun _ => rfl, fun _ _ _ _ _ => exec_adcdone_refused fits⟩
  | inedge id asserted =>
    refine ⟨withEvents (announcement (bindingOf s.cfg id) id asserted)
        (inputAct (bindingOf s.cfg id).action asserted s),
      fun h => absurd rfl h, fun pwm adc inbox submitter responses => ?_⟩
    rw [exec_inedge (s := reseat pwm adc inbox submitter responses s) rfl, inputAct_reseat]
    rfl

/-! ### The accumulators are hidden (10_state.md R48) -/

/-- Two states that differ in the accumulators only are one state with its accumulators replaced. -/
theorem eq_reseat_of_sameVisible {s t : State} (h : SameVisible s t) :
    s = reseat s.pwm s.adc t.inbox t.submitter t.responses t := by
  rw [← h]
  rfl

/-- Settles O36: an operation other than TICK does the same whatever the accumulators hold, and so leaves states that
differ there only. -/
theorem accumulatorsAreHidden : Obligations.AccumulatorsAreHidden := by
  unfold Obligations.AccumulatorsAreHidden
  intro i s1 s2 hi hsame
  obtain ⟨u, -, hexec⟩ := exec_reseat hi s2
  rw [eq_reseat_of_sameVisible hsame]
  exact ⟨_, _, hexec s1.pwm s1.adc s2.inbox s2.submitter s2.responses,
    hexec s2.pwm s2.adc s2.inbox s2.submitter s2.responses, rfl⟩

/-! ### The model's own fields -/

/-- The state with the model's own fields replaced. -/
def addressed (inbox : List Stimulus) (submitter : Agent) (responses : List Response) (s : State) : State :=
  reseat s.pwm s.adc inbox submitter responses s

section Addressed

variable (inbox : List Stimulus) (submitter : Agent) (responses : List Response) (s : State)

theorem regulateStage_addressed : regulateStage (addressed inbox submitter responses s)
    = addressed inbox submitter responses (regulateStage s) := by
  have hup : actIncrement (addressed inbox submitter responses s)
      = addressed inbox submitter responses (actIncrement s) := by
    unfold actIncrement
    rw [apply_ite (addressed inbox submitter responses)]
    rfl
  have hdown : actDecrement (addressed inbox submitter responses s)
      = addressed inbox submitter responses (actDecrement s) := by
    unfold actDecrement
    rw [apply_ite (addressed inbox submitter responses)]
    rfl
  unfold regulateStage regulate
  simp only [hup, hdown, apply_ite (addressed inbox submitter responses)]
  rfl

theorem countdownStage_addressed : countdownStage (addressed inbox submitter responses s)
    = addressed inbox submitter responses (countdownStage s) := by
  unfold countdownStage
  simp only [apply_ite (addressed inbox submitter responses)]
  rfl

/-- A tick does the same whatever the model's own fields hold. -/
theorem exec_tick_addressed : exec .tick (addressed inbox submitter responses s) = .next (answered .ok 0
    (addressed inbox submitter responses (countdownStage (regulateStage (measure s))))) := by
  have hmeasure : measure (addressed inbox submitter responses s)
      = addressed inbox submitter responses (measure s) := rfl
  rw [exec_tick, hmeasure, regulateStage_addressed, countdownStage_addressed]

end Addressed

/-- A rejected operation leaves the accumulators. -/
theorem accumulators_of_rejected {s : State} {i : Instr} (h : responseCode s i ≠ .ok) :
    pwmAfter s.params i s.pwm = s.pwm ∧ adcAfter s.params i s.adc = s.adc := by
  cases i with
  | tick => exact absurd rfl h
  | pwmedge rising ts =>
    by_cases fits : ts.toNat < 2 ^ s.params.tsWidth
    · exact absurd (if_neg (not_not.mpr fits)) h
    · exact ⟨if_neg fits, rfl⟩
  | adcdone value =>
    by_cases fits : value.toNat < 2 ^ s.params.adcBits
    · exact absurd (if_neg (not_not.mpr fits)) h
    · exact ⟨rfl, if_neg fits⟩
  | _ => exact ⟨rfl, rfl⟩

/-- Every operation does the same whatever the model's own fields hold, answers the submitter with its code and data,
and does nothing when it is rejected. -/
theorem exec_addressed (i : Instr) (s : State) :
    ∃ u : State, (responseCode s i ≠ .ok → u = s) ∧ ∀ inbox submitter responses,
      exec i (addressed inbox submitter responses s)
        = .next (answered (responseCode s i) (responseData s i) (addressed inbox submitter responses u)) := by
  by_cases hi : i = .tick
  · subst hi
    exact ⟨_, fun h => absurd rfl h, fun inbox submitter responses => exec_tick_addressed inbox submitter responses s⟩
  · obtain ⟨u, hrejected, hexec⟩ := exec_reseat hi s
    refine ⟨{ u with pwm := pwmAfter s.params i s.pwm, adc := adcAfter s.params i s.adc }, fun h => ?_,
      fun inbox submitter responses => hexec s.pwm s.adc inbox submitter responses⟩
    obtain ⟨hpwm, hadc⟩ := accumulators_of_rejected h
    rw [hrejected h, hpwm, hadc]

end Sys2Proof.Machine
end

section
/-! SUPPORT. The response of every word (60_exceptions.md R220, R221, R230), and stimuli performed in the order they
arrive (20_memory.md R68). -/

namespace Sys2Proof.Machine

/-! ### Words -/

/-- The code and data a word is answered with in a state. -/
def wordResponse (s : State) (w : OpWord) : ResponseCode × Half :=
  match decode s.params w with
  | .operation i => (responseCode s i, responseData s i)
  | .reserved _ => (.errReserved, 0)

theorem wordResponse_operation {s : State} {w : OpWord} {i : Instr} (h : decode s.params w = .operation i) :
    wordResponse s w = (responseCode s i, responseData s i) := by
  simp [wordResponse, h]

theorem wordResponse_reserved {s : State} {w : OpWord} {cause : ReservedCause}
    (h : decode s.params w = .reserved cause) : wordResponse s w = (.errReserved, 0) := by
  simp [wordResponse, h]

/-- Every word does the same whatever the model's own fields hold, and answers its submitter with its code and data; a
rejected one does nothing else. -/
theorem performWord_addressed (w : OpWord) (s : State) :
    ∃ u : State, ((wordResponse s w).1 ≠ .ok → u = s) ∧ ∀ a inbox submitter responses,
      performWord a w (addressed inbox submitter responses s)
        = .next (answered (wordResponse s w).1 (wordResponse s w).2 (addressed inbox a responses u)) := by
  cases hd : decode s.params w with
  | operation i =>
    rw [wordResponse_operation hd]
    obtain ⟨u, hrejected, hexec⟩ := exec_addressed i s
    exact ⟨u, hrejected, fun a inbox submitter responses =>
      (performWord_operation (s := addressed inbox submitter responses s) hd).trans (hexec inbox a responses)⟩
  | reserved cause =>
    rw [wordResponse_reserved hd]
    exact ⟨s, fun _ => rfl, fun a inbox submitter responses =>
      performWord_reserved (s := addressed inbox submitter responses s) hd⟩

/-- Only a READREG is answered with data, and with OK. -/
theorem readreg_of_data {s : State} {w : OpWord} (h : (wordResponse s w).2 ≠ 0) :
    (wordResponse s w).1 = .ok ∧ ∃ idx, decode s.params w = .operation (.readreg idx) := by
  cases hd : decode s.params w with
  | operation i =>
    rw [wordResponse_operation hd] at h ⊢
    cases i with
    | readreg idx => exact ⟨rfl, idx, rfl⟩
    | _ => exact absurd rfl h
  | reserved cause =>
    rw [wordResponse_reserved hd] at h
    exact absurd rfl h

/-- Settles O41: `performWord_addressed`, once with the answers given and once with others. -/
theorem everyWordIsAnsweredOnce : Obligations.EveryWordIsAnsweredOnce := by
  unfold Obligations.EveryWordIsAnsweredOnce
  intro a w s
  obtain ⟨u, -, hword⟩ := performWord_addressed w s
  exact ⟨_, _, _, hword a s.inbox s.submitter s.responses, rfl, readreg_of_data,
    fun earlier => hword a s.inbox s.submitter earlier⟩

/-- Settles O44: `performWord_addressed`, for each of the two agents. -/
theorem submitterIsNotChecked : Obligations.SubmitterIsNotChecked := by
  unfold Obligations.SubmitterIsNotChecked
  intro a b w s
  obtain ⟨u, -, hword⟩ := performWord_addressed w s
  exact ⟨addressed s.inbox a s.responses u, _, _, hword a s.inbox s.submitter s.responses,
    hword b s.inbox s.submitter s.responses⟩

/-! ### The causes of the codes (60_exceptions.md R221) -/

/-- A code given under a condition only. -/
theorem ite_ok_eq_iff {c : Prop} [Decidable c] {code code' : ResponseCode} (h : code' ≠ .ok) :
    (if c then code else .ok) = code' ↔ c ∧ code = code' := by
  split
  · next hc => exact (and_iff_right hc).symm
  · next hc => exact iff_of_false h.symm fun hand => hc hand.1

section Causes

variable (s : State) (i : Instr)

theorem responseCode_eq_errReserved_iff : responseCode s i = .errReserved ↔ ¬ i.WellFormed s.params := by
  cases i <;> simp [responseCode, ite_ok_eq_iff]

theorem responseCode_eq_errRange_iff : responseCode s i = .errRange ↔
    (∃ hz, i = .setfreq hz ∧ (hz.toNat < s.params.minFreq ∨ s.params.maxFreq < hz.toNat))
    ∨ (∃ dw, i = .setpwr dw ∧ s.params.maxPower < dw.toNat)
    ∨ (∃ ticks, i = .setrun .timed ticks
      ∧ (ticks.toNat < s.params.runTicksMin ∨ s.params.runTicksMax < ticks.toNat)) := by
  cases i <;> simp [responseCode, ite_ok_eq_iff, -ite_eq_left_iff]

theorem responseCode_eq_errEstop_iff :
    responseCode s i = .errEstop ↔ i = .turnon ∧ s.st.isEmergencyStopped = true := by
  cases i <;> simp [responseCode, ite_ok_eq_iff]

theorem responseCode_eq_errDisabled_iff :
    responseCode s i = .errDisabled ↔ (∃ step, i = .setpos step) ∧ s.params.hasDebugSetpos = false := by
  cases i <;> simp [responseCode, ite_ok_eq_iff]

end Causes

/-- Settles O42: a word's code is its operation's, whose causes are read off `responseCode`, or ERR_RESERVED. -/
theorem responseCodesAndCauses : Obligations.ResponseCodesAndCauses := by
  unfold Obligations.ResponseCodesAndCauses
  intro a w s
  obtain ⟨u, hrejected, hword⟩ := performWord_addressed w s
  refine ⟨_, _, _, hword a s.inbox s.submitter s.responses, rfl, fun h => ?_, ?_⟩
  · have hdata : (wordResponse s w).2 = 0 := by_contra fun hne => h (readreg_of_data hne).1
    rw [hrejected h, hdata]
    rfl
  · cases hd : decode s.params w with
    | operation i =>
      have wf := (encodeOfDecode _ _ _ hd).2
      simp [wordResponse_operation hd, responseCode_eq_errReserved_iff, wf, responseCode_eq_errRange_iff,
        responseCode_eq_errEstop_iff, responseCode_eq_errDisabled_iff]
    | reserved cause => simp [wordResponse_reserved hd]

/-- Settles O43: each code's four bits, the largest of them 4. -/
theorem responseCodeNumbers : Obligations.ResponseCodeNumbers := by
  unfold Obligations.ResponseCodeNumbers
  refine ⟨rfl, rfl, rfl, rfl, rfl, fun code => ?_⟩
  cases code <;> decide

/-! ### Steps -/

/-- A step of a legal set of parameters performs the front of the inbox. -/
theorem step_submitted {s : State} {x : Stimulus} {rest : List Stimulus} (legal : s.params.Legal)
    (hinbox : s.inbox = x :: rest) : step s = perform x { s with inbox := rest } := by
  rw [step, if_pos legal, performNext, takeStimulus, hinbox]

/-- Settles O45: the step performs the word, which is the decoded operation. -/
theorem stepRunsTheDecodedOperation : Obligations.StepRunsTheDecodedOperation := by
  unfold Obligations.StepRunsTheDecodedOperation
  intro a w i later s legal hinbox hd _
  rw [step_submitted legal hinbox]
  exact performWord_operation (s := { s with inbox := later }) hd

/-- Settles O46: an empty inbox has no front to take, and the parameters are checked before it. -/
theorem stepHoldsOrRefuses : Obligations.StepHoldsOrRefuses := by
  unfold Obligations.StepHoldsOrRefuses
  refine ⟨fun s legal hinbox => ?_, fun s illegal => if_neg illegal⟩
  rw [step, if_pos legal, performNext, takeStimulus, hinbox]

/-- A run takes its first step, and goes on from there. -/
theorem run_succ {s t : State} (h : step s = .next t) (k : Nat) :
    (Host.Core.run Sys2Proof.core (k + 1) s : Result) = Host.Core.run Sys2Proof.core k t := by
  simp only [Host.Core.run]
  rw [show Sys2Proof.core.step s = .next t from h]

/-- Any stimulus does the same whatever else is still to arrive, and keeps the parameters. -/
theorem perform_withInbox (x : Stimulus) (s : State) : ∃ t : State, t.params = s.params ∧
    ∀ later, perform x { s with inbox := later } = .next { t with inbox := later } := by
  cases x with
  | reset => exact ⟨performReset s, rfl, fun _ => rfl⟩
  | operation a w =>
    obtain ⟨u, -, hword⟩ := performWord_addressed w s
    have hnow := hword a s.inbox s.submitter s.responses
    exact ⟨_, performWord_params (s := s) hnow, fun later => hword a later s.submitter s.responses⟩

/-- Settles O47: by induction on the list, a step takes its first stimulus and performs it, which leaves the rest of the
inbox and the parameters as they were. -/
theorem stimuliArePerformedInArrivalOrder : Obligations.StimuliArePerformedInArrivalOrder := by
  unfold Obligations.StimuliArePerformedInArrivalOrder
  intro xs later s legal
  induction xs generalizing s with
  | nil => rfl
  | cons x xs ih =>
    obtain ⟨t, hparams, hperform⟩ := perform_withInbox x s
    have hstep : step { s with inbox := x :: (xs ++ later) } = .next { t with inbox := xs ++ later } :=
      (step_submitted (s := { s with inbox := x :: (xs ++ later) }) legal rfl).trans (hperform (xs ++ later))
    rw [List.cons_append, List.length_cons, run_succ hstep, performAll, hperform later]
    exact ih t (hparams ▸ legal)

end Sys2Proof.Machine
end

section
/-! SUPPORT. Who writes what (10_state.md R31 to R40, R46): the configuration, the status and the log, read off the
effects of the operations. -/

namespace Sys2Proof.Machine

/-! ### The configuration (10_state.md R31 to R36) -/

@[simp] theorem enabledState_cfg (s : State) : (enabledState s).cfg = s.cfg := rfl

@[simp] theorem setEStop_cfg (value : Bool) (s : State) : (setEStop value s).cfg = s.cfg := by
  cases value <;> rfl

@[simp] theorem inputAct_cfg (action : InputAction) (asserted : Bool) (s : State) :
    (inputAct action asserted s).cfg = s.cfg := by
  obtain h | ⟨-, -, -, -, h⟩ | ⟨-, h⟩ | ⟨-, -, h⟩ := inputAct_cases action asserted s <;> simp [h]

/-- Settles O37: each effect writes the fields of its setter, with its operand, or none. -/
theorem configurationWriters : Obligations.ConfigurationWriters := by
  unfold Obligations.ConfigurationWriters
  intro i s t h
  cases effect_of_exec h with
  | setbind id action announce => cases id <;> simp [withBinding]
  | _ => simp

/-! ### The status (10_state.md R37 to R39) -/

/-- An edge's action keeps the measured values and the position. -/
theorem inputAct_keeps_measured (action : InputAction) (asserted : Bool) (s : State) :
    (inputAct action asserted s).st.measuredFrequencyHz = s.st.measuredFrequencyHz ∧
    (inputAct action asserted s).st.measuredDutyCycleDeciPercent = s.st.measuredDutyCycleDeciPercent ∧
    (inputAct action asserted s).st.measuredCurrentDeciAmps = s.st.measuredCurrentDeciAmps ∧
    (inputAct action asserted s).st.measuredPowerDeciWatts = s.st.measuredPowerDeciWatts ∧
    (inputAct action asserted s).st.actuatorPosition = s.st.actuatorPosition := by
  obtain h | ⟨-, -, -, -, h⟩ | ⟨-, h⟩ | ⟨-, -, h⟩ := inputAct_cases action asserted s <;>
    simp [h, enabledState, setEStop_true]

/-- Settles O38: SETPOS and TICK move the position, TICK alone measures, and the operations of a run, which TurnOn,
TurnOff and the counting stage are reached from, write the countdown. -/
theorem statusWriters : Obligations.StatusWriters := by
  unfold Obligations.StatusWriters
  intro i s t h
  cases effect_of_exec h with
  | setestop value => cases value <;> simp [setEStop_true, setEStop_false]
  | inedge id asserted => simp [inputAct_keeps_measured]
  | inedgeAnnounced id asserted => simp [inputAct_keeps_measured]
  | turnon => simp [enabledState]
  | _ => simp

/-! ### The log (10_state.md R46) -/

/-- An operation that may emit an event in a state. -/
def MayEmit (s : State) (i : Instr) : OutputEvent → Prop
  | .potWrite _ => i = .tick ∨ ∃ step, i = .setpos step
  | .genFreqWrite hz => i = .setfreq hz
  | .genOn kind hz => kind = s.params.waveformKind ∧ hz = s.cfg.frequencyHz ∧ (i = .turnon ∨ ∃ id, i = .inedge id true)
  | .genOff => i = .turnoff ∨ i = .setestop true ∨ i = .tick ∨ ∃ id asserted, i = .inedge id asserted
  | .adcRestart => ∃ value, i = .adcdone value
  | .announce id asserted => i = .inedge id asserted

/-- The new log is the old one and events that the operation may emit. -/
def Appends (s : State) (i : Instr) (log : List OutputEvent) : Prop :=
  ∃ events, log = s.log ++ events ∧ ∀ e ∈ events, MayEmit s i e

theorem appends_nil (s : State) (i : Instr) : Appends s i s.log := ⟨[], by simp, by simp⟩

/-- One more event. -/
theorem Appends.snoc {s : State} {i : Instr} {log : List OutputEvent} (h : Appends s i log) {e : OutputEvent}
    (he : MayEmit s i e) : Appends s i (log ++ [e]) := by
  obtain ⟨events, rfl, hevents⟩ := h
  refine ⟨events ++ [e], by simp, fun e' he' => ?_⟩
  obtain he' | he' := List.mem_append.mp he'
  · exact hevents e' he'
  · rwa [List.mem_singleton.mp he']

theorem appends_inputAct (id : InputId) (action : InputAction) (asserted : Bool) (s : State) :
    Appends s (.inedge id asserted) (inputAct action asserted s).log := by
  obtain h | ⟨rfl, -, -, -, h⟩ | ⟨-, h⟩ | ⟨-, -, h⟩ := inputAct_cases action asserted s <;> rw [h]
  · exact appends_nil s _
  · exact (appends_nil s _).snoc ⟨rfl, rfl, .inr ⟨id, rfl⟩⟩
  · exact (appends_nil s _).snoc (.inr (.inr (.inr ⟨id, asserted, rfl⟩)))
  · exact (appends_nil s _).snoc (.inr (.inr (.inr ⟨id, asserted, rfl⟩)))

theorem appends_tick (s : State) : Appends s .tick (ticked s).log := by
  have hmoved : Appends s .tick (regulateStage (measure s)).log := by
    rw [regulateStage_log, measure_log]
    split
    · rw [List.append_nil]
      exact appends_nil s _
    · exact (appends_nil s _).snoc (.inl rfl)
  rw [ticked_log]
  split
  · exact hmoved.snoc (.inr (.inr (.inl rfl)))
  · rwa [List.append_nil]

/-- Every effect appends events that its operation may emit. -/
theorem Effect.appends {i : Instr} {s t : State} (he : Effect s i t) : Appends s i t.log := by
  cases he with
  | setfreq hz => exact (appends_nil s _).snoc rfl
  | turnon => exact (appends_nil s _).snoc ⟨rfl, rfl, .inl rfl⟩
  | turnoff => exact (appends_nil s _).snoc (.inl rfl)
  | setestop value =>
    cases value with
    | true => exact (appends_nil s _).snoc (.inr (.inl rfl))
    | false => exact appends_nil s _
  | setpos step => exact (appends_nil s _).snoc (.inr ⟨step, rfl⟩)
  | tick => exact appends_tick s
  | adcdone value => exact (appends_nil s _).snoc ⟨value, rfl⟩
  | inedge id asserted => exact appends_inputAct id _ asserted s
  | inedgeAnnounced id asserted => exact (appends_inputAct id _ asserted s).snoc rfl
  | _ => exact appends_nil s _

/-- Settles O40: the events an effect appends, and of each kind the operations that may emit it. -/
theorem logIsAppendOnly : Obligations.LogIsAppendOnly := by
  unfold Obligations.LogIsAppendOnly
  intro i s t h
  obtain ⟨events, hlog, hevents⟩ := (effect_of_exec h).appends
  refine ⟨events, hlog, fun e he => ⟨?_, ?_, ?_, ?_, ?_, ?_⟩⟩
  · rintro pos rfl
    exact hevents _ he
  · rintro hz rfl
    exact hevents _ he
  · rintro kind hz rfl
    exact hevents _ he
  · rintro rfl
    exact hevents _ he
  · rintro rfl
    exact hevents _ he
  · rintro id asserted rfl
    exact hevents _ he

end Sys2Proof.Machine
end

section
/-! SUPPORT. The assembler (30_encoding.md R98, R99): lines of the vectors, the pseudo-instructions, and the register
names. -/

namespace Sys2Proof.Machine

/-- Settles O52: the lines are closed, so their words are computed. -/
theorem assemblerLines : Obligations.AssemblerLines := by
  unfold Obligations.AssemblerLines
  decide

/-- The register names with their indices, as the table of 10_state.md R54 lists them. -/
def registerTable : List (String × BitVec 4) :=
  [("CFG_FREQ", 0x0), ("CFG_POWER", 0x1), ("CFG_RUNTICKS", 0x2), ("CFG_MODE", 0x3), ("CFG_INPUTS", 0x4),
    ("ST_FREQ", 0x5), ("ST_DUTY", 0x6), ("ST_CURRENT", 0x7), ("ST_POWER", 0x8), ("ST_POS", 0x9),
    ("ST_COUNTDOWN", 0xA), ("ST_FLAGS", 0xB)]

theorem registerName?_of_mem {entry : String × BitVec 4} (h : entry ∈ registerTable) :
    registerName? entry.1 = some entry.2 := by
  revert entry
  decide

theorem mem_of_registerName? {name : String} {idx : BitVec 4} (h : registerName? name = some idx) :
    (name, idx) ∈ registerTable := by
  unfold registerName? at h
  split at h <;> cases h <;> decide

/-! The lines that the pseudo-instructions are compared by. -/

theorem operationsOf_pwmcycle (tf tr1 tr2 : String) : operationsOf "PWMCYCLE" [tf, tr1, tr2] =
    (field? 16 tf).bind fun f => (field? 16 tr1).bind fun r1 => (field? 16 tr2).map fun r2 =>
      [.pwmedge false f, .pwmedge true r1, .pwmedge true r2] := rfl

theorem operationsOf_pwmedge_fall (ts : String) :
    operationsOf "PWMEDGE" ["FALL", ts] = (field? 16 ts).map ([.pwmedge false ·]) := rfl

theorem operationsOf_pwmedge_rise (ts : String) :
    operationsOf "PWMEDGE" ["RISE", ts] = (field? 16 ts).map ([.pwmedge true ·]) := rfl

theorem operationsOf_read (name : String) :
    operationsOf "READ" [name] = (registerName? name).map ([.readreg ·]) := rfl

theorem operationsOf_readreg (idx : String) :
    operationsOf "READREG" [idx] = ((registerName? idx).or (field? 4 idx)).map ([.readreg ·]) := rfl

/-- Settles O53: PWMCYCLE and its three lines are the same fields, refused together when one is refused, and a
register's name is looked up in the same table by READ and READREG. -/
theorem pseudoInstructionsExpand : Obligations.PseudoInstructionsExpand := by
  unfold Obligations.PseudoInstructionsExpand
  refine ⟨by decide, by decide, fun tf tr1 tr2 => ?_, fun name idx => ⟨mem_of_registerName?, registerName?_of_mem⟩,
    fun name idx h => ?_⟩
  · rw [operationsOf_pwmcycle, operationsOf_pwmedge_fall, operationsOf_pwmedge_rise, operationsOf_pwmedge_rise]
    cases field? 16 tf <;> cases field? 16 tr1 <;> cases field? 16 tr2 <;> rfl
  · rw [operationsOf_read, operationsOf_readreg, h]
    exact ⟨rfl, rfl⟩

end Sys2Proof.Machine
end
